-- ==== Sys2Proof/Word.lean ====
section
/-! DEFINITION. The widths the spec names (00_scope.md R9) and the Pixel. -/

namespace Sys2Proof

/-- A Byte, 0 to 255 (R9). -/
abbrev Byte := BitVec 8

/-- A Word16, 0 to 65535 (R9): one packed RGBA-5551 color. -/
abbrev Word16 := BitVec 16

/-- A Word32 (R9): one register word, one command word. -/
abbrev Word32 := BitVec 32

/-- A Pixel (R9): "a 4-tuple (red, green, blue, alpha), each channel an 8-bit unsigned value". -/
structure Pixel where
  r : Byte
  g : Byte
  b : Byte
  a : Byte
deriving DecidableEq, Repr, Inhabited

end Sys2Proof
end

