-- ==== Sys2Proof/Syntax.lean ====
section
/-! DEFINITION. The command set (30_encoding.md R60 to R68): the nine formats, the eleven operations, and one
constructor of Instr per row of spec/opcode_table.json. -/

namespace Sys2Proof

/-- The nine texture formats (00_scope.md R3), in the order of their codes (30_encoding.md R61). -/
inductive Format where
  | rgba32 | rgba16 | i4 | i8 | ia4 | ia8 | ia16 | ci4 | ci8
deriving DecidableEq, Repr

/-- The two indexed formats, the only ones with a palette (R61 column isCI). -/
inductive CIFormat where
  | ci4 | ci8
deriving DecidableEq, Repr

/-- The FMT field as it stands in the word: a 4-bit unsigned code taken as is (R64). -/
abbrev FmtCode := BitVec 4

/-- The operations OP can name (R62). -/
inductive Op where
  | nop | decode | encode | planeDecode | planeEncode | palBuild | palRead | palWrite | swizzle | unpack5551 | pack5551
deriving DecidableEq, Repr

/-- One constructor per row of spec/opcode_table.json. A row whose FMT is a field carries the code as it stands:
the command itself refuses a code it does not admit (60_exceptions.md R180 "raised by"; log 7), and the three rows
that ignore FMT keep the ignored code, so that no bit of a word is dropped (R65; log 8). -/
inductive Instr where
  /-- NOP (45_convert.md R162). -/
  | nop (fmt : FmtCode)
  /-- DECODE (45_convert.md R160). -/
  | decode (fmt : FmtCode)
  /-- ENCODE (45_convert.md R161). -/
  | encode (fmt : FmtCode)
  /-- PLANE_DECODE.RGBA32 (41_plane_decode.md R92). -/
  | planeDecodeRgba32
  /-- PLANE_DECODE.RGBA16 (R93). -/
  | planeDecodeRgba16
  /-- PLANE_DECODE.I4 (R94). -/
  | planeDecodeI4
  /-- PLANE_DECODE.I8 (R95). -/
  | planeDecodeI8
  /-- PLANE_DECODE.IA4 (R96). -/
  | planeDecodeIa4
  /-- PLANE_DECODE.IA8 (R97). -/
  | planeDecodeIa8
  /-- PLANE_DECODE.IA16 (R98). -/
  | planeDecodeIa16
  /-- PLANE_DECODE.CI4 (R99). -/
  | planeDecodeCi4
  /-- PLANE_DECODE.CI8 (R100). -/
  | planeDecodeCi8
  /-- PLANE_ENCODE.RGBA32 (42_plane_encode.md R112). -/
  | planeEncodeRgba32
  /-- PLANE_ENCODE.RGBA16 (R113). -/
  | planeEncodeRgba16
  /-- PLANE_ENCODE.I4 (R114). -/
  | planeEncodeI4
  /-- PLANE_ENCODE.I8 (R115). -/
  | planeEncodeI8
  /-- PLANE_ENCODE.IA4 (R116). -/
  | planeEncodeIa4
  /-- PLANE_ENCODE.IA8 (R117). -/
  | planeEncodeIa8
  /-- PLANE_ENCODE.IA16 (R118). -/
  | planeEncodeIa16
  /-- PLANE_ENCODE.CI4 (R119). -/
  | planeEncodeCi4
  /-- PLANE_ENCODE.CI8 (R120). -/
  | planeEncodeCi8
  /-- PAL_BUILD (43_palette.md R140). -/
  | palBuild (fmt : FmtCode)
  /-- PAL_READ (43_palette.md R141). -/
  | palRead (fmt : FmtCode)
  /-- PAL_WRITE (43_palette.md R142). -/
  | palWrite (fmt : FmtCode)
  /-- SWIZZLE (44_swizzle.md R151). -/
  | swizzle (fmt : FmtCode)
  /-- UNPACK5551 (40_bitpack.md R82). -/
  | unpack5551 (fmt : FmtCode)
  /-- PACK5551 (40_bitpack.md R83). -/
  | pack5551 (fmt : FmtCode)
deriving DecidableEq, Repr

end Sys2Proof
end

