-- ==== Sys2Proof/WellFormed.lean ====
section
/-! DEFINITION. Well-formed instructions: the FMT code is one the operation admits (30_encoding.md R62, column
"admitted FMT"). An ill-formed one still decodes and still runs: its command raises UnsupportedFormat (R63, R65). -/

namespace Sys2Proof

/-- The nine assigned codes, 0 to 8 (R61). -/
def FmtCode.assigned (fmt : FmtCode) : Bool := fmt ≤ 8#4

/-- The codes of the indexed formats, 7 and 8 (R61). -/
def FmtCode.indexed (fmt : FmtCode) : Bool := fmt = 7#4 ∨ fmt = 8#4

/-- The operation admits the format code (R62). -/
def Instr.wf : Instr → Bool
  | .nop _ => true
  | .decode fmt => FmtCode.assigned fmt
  | .encode fmt => FmtCode.assigned fmt
  | .planeDecodeRgba32 => true
  | .planeDecodeRgba16 => true
  | .planeDecodeI4 => true
  | .planeDecodeI8 => true
  | .planeDecodeIa4 => true
  | .planeDecodeIa8 => true
  | .planeDecodeIa16 => true
  | .planeDecodeCi4 => true
  | .planeDecodeCi8 => true
  | .planeEncodeRgba32 => true
  | .planeEncodeRgba16 => true
  | .planeEncodeI4 => true
  | .planeEncodeI8 => true
  | .planeEncodeIa4 => true
  | .planeEncodeIa8 => true
  | .planeEncodeIa16 => true
  | .planeEncodeCi4 => true
  | .planeEncodeCi8 => true
  | .palBuild fmt => FmtCode.indexed fmt
  | .palRead fmt => FmtCode.indexed fmt
  | .palWrite fmt => FmtCode.indexed fmt
  | .swizzle fmt => FmtCode.assigned fmt
  | .unpack5551 _ => true
  | .pack5551 _ => true

end Sys2Proof
end

