-- ==== Sys2Proof/Decode.lean ====
section
/-! DEFINITION. The decoder of command words (30_encoding.md R60 to R66), total, rejecting by name; the encoder,
written from the same tables; and the assembler text of R67. -/

namespace Sys2Proof

/-- Why a word written to CMD is no instruction of the table. -/
inductive DecodeReject where
  /-- RSV is not 0, or OP is unassigned (R63, R65). -/
  | illegalCommand
  /-- OP is PLANE_DECODE or PLANE_ENCODE, whose rows are one per format, and FMT is 9 to 15 (R63, R65). -/
  | unsupportedFormat
deriving DecidableEq, Repr

/-- OP, bits [7:0] (R60). -/
def opField (c : Word32) : Byte := c.extractLsb' 0 8

/-- FMT, bits [11:8] (R60). -/
def fmtField (c : Word32) : FmtCode := c.extractLsb' 8 4

/-- RSV, bits [31:12] (R60). -/
def rsvField (c : Word32) : BitVec 20 := c.extractLsb' 12 20

/-- The format a code stands for (R61); the codes 9 to 15 are unassigned. -/
def Format.ofCode (fmt : FmtCode) : Option Format :=
  match fmt.toNat with
  | 0 => some .rgba32
  | 1 => some .rgba16
  | 2 => some .i4
  | 3 => some .i8
  | 4 => some .ia4
  | 5 => some .ia8
  | 6 => some .ia16
  | 7 => some .ci4
  | 8 => some .ci8
  | _ => none

/-- The code of a format (R61). -/
def Format.code : Format → FmtCode
  | .rgba32 => 0
  | .rgba16 => 1
  | .i4 => 2
  | .i8 => 3
  | .ia4 => 4
  | .ia8 => 5
  | .ia16 => 6
  | .ci4 => 7
  | .ci8 => 8

/-- The operation an OP value names (R62); every other value is unassigned. -/
def Op.ofCode (op : Byte) : Option Op :=
  if op = 0x00#8 then some .nop
  else if op = 0x01#8 then some .decode
  else if op = 0x02#8 then some .encode
  else if op = 0x10#8 then some .planeDecode
  else if op = 0x11#8 then some .planeEncode
  else if op = 0x20#8 then some .palBuild
  else if op = 0x21#8 then some .palRead
  else if op = 0x22#8 then some .palWrite
  else if op = 0x30#8 then some .swizzle
  else if op = 0x40#8 then some .unpack5551
  else if op = 0x41#8 then some .pack5551
  else none

/-- The OP value of an operation (R62). -/
def Op.code : Op → Byte
  | .nop => 0x00
  | .decode => 0x01
  | .encode => 0x02
  | .planeDecode => 0x10
  | .planeEncode => 0x11
  | .palBuild => 0x20
  | .palRead => 0x21
  | .palWrite => 0x22
  | .swizzle => 0x30
  | .unpack5551 => 0x40
  | .pack5551 => 0x41

/-- The PLANE_DECODE row of a format (opcode_table.json). -/
def planeDecodeInstr : Format → Instr
  | .rgba32 => .planeDecodeRgba32
  | .rgba16 => .planeDecodeRgba16
  | .i4 => .planeDecodeI4
  | .i8 => .planeDecodeI8
  | .ia4 => .planeDecodeIa4
  | .ia8 => .planeDecodeIa8
  | .ia16 => .planeDecodeIa16
  | .ci4 => .planeDecodeCi4
  | .ci8 => .planeDecodeCi8

/-- The PLANE_ENCODE row of a format (opcode_table.json). -/
def planeEncodeInstr : Format → Instr
  | .rgba32 => .planeEncodeRgba32
  | .rgba16 => .planeEncodeRgba16
  | .i4 => .planeEncodeI4
  | .i8 => .planeEncodeI8
  | .ia4 => .planeEncodeIa4
  | .ia8 => .planeEncodeIa8
  | .ia16 => .planeEncodeIa16
  | .ci4 => .planeEncodeCi4
  | .ci8 => .planeEncodeCi8

/-- The instruction of an operation and a format code. Only the operations whose rows are one per format can refuse
here; the others carry the code into the command, which checks it (log 7). -/
def Op.toInstr (op : Op) (fmt : FmtCode) : Except DecodeReject Instr :=
  match op with
  | .nop => .ok (.nop fmt)
  | .decode => .ok (.decode fmt)
  | .encode => .ok (.encode fmt)
  | .planeDecode =>
    match Format.ofCode fmt with
    | some f => .ok (planeDecodeInstr f)
    | none => .error .unsupportedFormat
  | .planeEncode =>
    match Format.ofCode fmt with
    | some f => .ok (planeEncodeInstr f)
    | none => .error .unsupportedFormat
  | .palBuild => .ok (.palBuild fmt)
  | .palRead => .ok (.palRead fmt)
  | .palWrite => .ok (.palWrite fmt)
  | .swizzle => .ok (.swizzle fmt)
  | .unpack5551 => .ok (.unpack5551 fmt)
  | .pack5551 => .ok (.pack5551 fmt)

/-- Decoding a command word, the steps in the order of R63: RSV, then OP, then the format. -/
def decode (c : Word32) : Except DecodeReject Instr :=
  if rsvField c ≠ 0 then .error .illegalCommand
  else
    match Op.ofCode (opField c) with
    | none => .error .illegalCommand
    | some op => op.toInstr (fmtField c)

/-- The operation of an instruction (R62). -/
def Instr.op : Instr → Op
  | .nop _ => .nop
  | .decode _ => .decode
  | .encode _ => .encode
  | .planeDecodeRgba32 => .planeDecode
  | .planeDecodeRgba16 => .planeDecode
  | .planeDecodeI4 => .planeDecode
  | .planeDecodeI8 => .planeDecode
  | .planeDecodeIa4 => .planeDecode
  | .planeDecodeIa8 => .planeDecode
  | .planeDecodeIa16 => .planeDecode
  | .planeDecodeCi4 => .planeDecode
  | .planeDecodeCi8 => .planeDecode
  | .planeEncodeRgba32 => .planeEncode
  | .planeEncodeRgba16 => .planeEncode
  | .planeEncodeI4 => .planeEncode
  | .planeEncodeI8 => .planeEncode
  | .planeEncodeIa4 => .planeEncode
  | .planeEncodeIa8 => .planeEncode
  | .planeEncodeIa16 => .planeEncode
  | .planeEncodeCi4 => .planeEncode
  | .planeEncodeCi8 => .planeEncode
  | .palBuild _ => .palBuild
  | .palRead _ => .palRead
  | .palWrite _ => .palWrite
  | .swizzle _ => .swizzle
  | .unpack5551 _ => .unpack5551
  | .pack5551 _ => .pack5551

/-- The FMT code of an instruction's word (R61, R62). -/
def Instr.fmt : Instr → FmtCode
  | .nop fmt => fmt
  | .decode fmt => fmt
  | .encode fmt => fmt
  | .planeDecodeRgba32 => 0
  | .planeDecodeRgba16 => 1
  | .planeDecodeI4 => 2
  | .planeDecodeI8 => 3
  | .planeDecodeIa4 => 4
  | .planeDecodeIa8 => 5
  | .planeDecodeIa16 => 6
  | .planeDecodeCi4 => 7
  | .planeDecodeCi8 => 8
  | .planeEncodeRgba32 => 0
  | .planeEncodeRgba16 => 1
  | .planeEncodeI4 => 2
  | .planeEncodeI8 => 3
  | .planeEncodeIa4 => 4
  | .planeEncodeIa8 => 5
  | .planeEncodeIa16 => 6
  | .planeEncodeCi4 => 7
  | .planeEncodeCi8 => 8
  | .palBuild fmt => fmt
  | .palRead fmt => fmt
  | .palWrite fmt => fmt
  | .swizzle fmt => fmt
  | .unpack5551 fmt => fmt
  | .pack5551 fmt => fmt

/-- The word of an operation and a format code: RSV = 0, then FMT, then OP (R60), which is `(fmt << 8) | op` (R67). -/
def commandWord (op : Op) (fmt : FmtCode) : Word32 := 0#20 ++ fmt ++ op.code

/-- The encoder: the word of an instruction. -/
def encode (i : Instr) : Word32 := commandWord i.op i.fmt

/-- The instruction the decoder reads from a word given as spec/opcode_table.json numbers its bits: a command is one
32-bit word written to CMD whole (R26, R60), so its bytes are not laid out in any memory. -/
def decodeTableWord (nbits w : Nat) : Option Instr :=
  match decode (BitVec.ofNat 32 (w % 2 ^ nbits)) with
  | .ok i => some i
  | .error _ => none

/-- The name of a format in assembler text (R67, R61). -/
def Format.name : Format → String
  | .rgba32 => "RGBA32"
  | .rgba16 => "RGBA16"
  | .i4 => "I4"
  | .i8 => "I8"
  | .ia4 => "IA4"
  | .ia8 => "IA8"
  | .ia16 => "IA16"
  | .ci4 => "CI4"
  | .ci8 => "CI8"

/-- The mnemonic of an operation in assembler text (R67, R62). -/
def Op.mnemonic : Op → String
  | .nop => "NOP"
  | .decode => "DECODE"
  | .encode => "ENCODE"
  | .planeDecode => "PLANE_DECODE"
  | .planeEncode => "PLANE_ENCODE"
  | .palBuild => "PAL_BUILD"
  | .palRead => "PAL_READ"
  | .palWrite => "PAL_WRITE"
  | .swizzle => "SWIZZLE"
  | .unpack5551 => "UNPACK5551"
  | .pack5551 => "PACK5551"

/-- The operation uses FMT (R62). -/
def Op.usesFmt : Op → Bool
  | .nop => false
  | .decode => true
  | .encode => true
  | .planeDecode => true
  | .planeEncode => true
  | .palBuild => true
  | .palRead => true
  | .palWrite => true
  | .swizzle => true
  | .unpack5551 => false
  | .pack5551 => false

/-- The word of a command written `MNEMONIC FORMAT`, or `MNEMONIC` for an operation that ignores FMT, which assembles
with FMT = 0; none where the format is missing or superfluous (R67). -/
def assemble (op : Op) (format : Option Format) : Option Word32 :=
  match op.usesFmt, format with
  | true, some f => some (commandWord op f.code)
  | false, none => some (commandWord op 0)
  | true, none => none
  | false, some _ => none

/-- The text of such a command (R67). -/
def assemblyText (op : Op) (format : Option Format) : String :=
  match format with
  | some f => op.mnemonic ++ " " ++ f.name
  | none => op.mnemonic

end Sys2Proof
end

