-- ==== Sys2Proof/Config.lean ====
section
/-! DEFINITION. What the spec leaves to the implementation: the OPEN parameters RAW_CAP and SURF_CAP (00_scope.md
R8, 92_eei_decisions.md D7), and the unspecified contents of memory cells nothing has written (10_state.md R36).
None has a body, so no proof can lean on a value of one. -/

namespace Sys2Proof

/-- RAW_CAP, the size of the raw byte buffer in bytes: OPEN (R8, D7; log 5). -/
opaque Config.rawCap : Nat

/-- SURF_CAP, the size of the pixel surface in pixels: OPEN (R8, D7; log 5). -/
opaque Config.surfCap : Nat

/-- What RAW[a] holds while nothing has written it: "any value" (R36, 93_implementation_defined.md; log 3). -/
opaque Config.rawPowerOn : Nat → Byte

/-- What SURF[k] holds while nothing has written it: "any value" (R36, 93_implementation_defined.md; log 4). -/
opaque Config.surfPowerOn : Nat → Pixel

end Sys2Proof
end

