-- ==== Sys2Proof/Machine/State.lean ====
section
/-! DEFINITION. The machine's state as plain data (10_state.md), its stops, and the state after reset (10_state.md
R36). -/

namespace Sys2Proof.Machine

open Sys2Proof

/-- A memory of values: (address, value) pairs with strictly rising addresses. An address not listed holds no
value: nothing has written it since power-on (10_state.md R36; log 3, log 4). A memory of bytes is a list of
Host.Cell. -/
abbrev Memory (α : Type) := List (Nat × α)

/-- The palette register file, PAL[0..256), each entry one packed RGBA-5551 color (10_state.md R31). -/
abbrev Palette := Vector Word16 256

/-- What the host, the reset input and the power supply do between commands (10_state.md R20, 20_memory.md R40 to
R43, R49, 70_reset_and_hazards.md R200, 60_exceptions.md R192). -/
inductive HostEvent where
  /-- The host writes a word at a byte offset of the register space; at CMD this issues a command (R26). -/
  | writeReg (offset : Nat) (value : Word32)
  /-- The host reads the word at a byte offset of the register space. -/
  | readReg (offset : Nat)
  /-- The host writes one byte of RAW (R43). -/
  | writeRaw (index : Nat) (value : Byte)
  /-- The host reads one byte of RAW (R43). -/
  | readRaw (index : Nat)
  /-- The host writes one pixel of SURF (R41). -/
  | writeSurf (index : Nat) (value : Pixel)
  /-- The host reads one pixel of SURF (R41). -/
  | readSurf (index : Nat)
  /-- The host writes one entry of PAL (R42). -/
  | writePal (index : Nat) (value : Word16)
  /-- The host reads one entry of PAL (R42). -/
  | readPal (index : Nat)
  /-- The reset input is asserted while the engine is powered (R200). -/
  | assertReset
  /-- The engine loses power (R192). -/
  | losePower
deriving DecidableEq, Repr

/-- What a host read returns (20_memory.md R49). -/
inductive HostData where
  /-- A register word. -/
  | word (value : Word32)
  /-- A byte of RAW. -/
  | byte (value : Byte)
  /-- A pixel of SURF. -/
  | pixel (value : Pixel)
  /-- An entry of PAL. -/
  | entry (value : Word16)
deriving DecidableEq, Repr

/-- The state of one engine and of the host that drives it. -/
structure State where
  /-- CTRL.SWZ_EN (10_state.md R23). -/
  swzEn : Bool
  /-- CTRL.PAL_AT_START (R23). -/
  palAtStart : Bool
  /-- WIDTH.W (R24). -/
  width : BitVec 16
  /-- HEIGHT.H (R25). -/
  height : BitVec 16
  /-- STATUS.ERR, the result of the last command (R29). -/
  err : BitVec 4
  /-- RAW_LEN.LEN (R28). -/
  rawLen : BitVec 32
  /-- PAL_COUNT.COUNT (R30). -/
  palCount : BitVec 9
  /-- WORD.W16 (R32). -/
  word : Word16
  /-- PIXEL (R33). -/
  pixel : Pixel
  /-- RAW, the raw byte buffer (R35). -/
  raw : Memory Byte
  /-- SURF, the image surface (R27). -/
  surf : Memory Pixel
  /-- PAL, the palette register file (R31). -/
  pal : Palette
  /-- RAW_CAP, a parameter of the instance; no step changes it (00_scope.md R8; log 5). -/
  rawCap : Nat
  /-- SURF_CAP, a parameter of the instance; no step changes it (00_scope.md R8; log 5). -/
  surfCap : Nat
  /-- The model's own: what the host does next, oldest first (log 1). -/
  pending : List HostEvent
  /-- The model's own: what the last host read returned (log 9). -/
  response : Option HostData
deriving DecidableEq, Repr

/-- Why the machine stops with a fault. NO CONSTRUCTOR: the engine has no trap, and every command that cannot
complete is a next state with a code in STATUS.ERR (60_exceptions.md R180, R183). Safe: nothing raises one. -/
inductive Fault where
deriving DecidableEq, Repr

/-- Why the machine has no next state. -/
inductive Refusal where
  /-- Raised by exec's arm of an instruction that has no meaning yet: no arm is of this kind. Safe. -/
  | notModelled (mnemonic : String)
  /-- Raised by the event losePower: "What survives a loss of power is not stated" (60_exceptions.md R192;
  93_implementation_defined.md: refuse; log 11). Safe. -/
  | powerLost
deriving DecidableEq, Repr

/-- The machine right after a power-on reset (10_state.md R36, 70_reset_and_hazards.md R200, R201): RAW and SURF
hold nothing written, and no host event is pending (log 1). -/
def State.reset : State where
  swzEn := true
  palAtStart := false
  width := 0
  height := 0
  err := 0
  rawLen := 0
  palCount := 0
  word := 0
  pixel := ⟨0, 0, 0, 0⟩
  raw := []
  surf := []
  pal := Vector.replicate 256 0
  rawCap := Config.rawCap
  surfCap := Config.surfCap
  pending := []
  response := none

end Sys2Proof.Machine
end

