-- ==== Sys2Proof/Machine/Flags.lean ====
section
/-! DEFINITION. The one result field, STATUS.ERR: the error kinds and their codes (60_exceptions.md R180). No other
flag or condition code exists (10_state.md R29). -/

namespace Sys2Proof.Machine

open Sys2Proof

/-- The error kinds (R180). -/
inductive ErrorKind where
  /-- FMT is not a format the operation admits. -/
  | unsupportedFormat
  /-- Fewer plane bytes than the geometry requires. -/
  | truncatedInput
  /-- More colors than the format's palette holds. -/
  | paletteOverflow
  /-- Two pixels share a byte and the width is odd. -/
  | oddWidthUnsupported
  /-- The raw buffer is shorter than the palette. -/
  | malformedPalette
  /-- RSV is not 0, or OP is unassigned. -/
  | illegalCommand
  /-- A texture or image does not fit RAW or SURF. -/
  | capacityExceeded
deriving DecidableEq, Repr

/-- The code of an error kind in STATUS.ERR (R180). Code 0 is "the command completed"; 8 to 15 are reserved. -/
def ErrorKind.code : ErrorKind → BitVec 4
  | .unsupportedFormat => 1
  | .truncatedInput => 2
  | .paletteOverflow => 3
  | .oddWidthUnsupported => 4
  | .malformedPalette => 5
  | .illegalCommand => 6
  | .capacityExceeded => 7

/-- The code STATUS.ERR takes when a command completes (R180, 10_state.md R29). -/
def completedCode : BitVec 4 := 0

/-- The error kind of a word that is no instruction of the table (30_encoding.md R63). -/
def rejectError : DecodeReject → ErrorKind
  | .illegalCommand => .illegalCommand
  | .unsupportedFormat => .unsupportedFormat

end Sys2Proof.Machine
end

