-- ==== Sys2Proof/Machine/Ops.lean ====
section
/-! DEFINITION. The shared operations: memories, the engine's reads and writes of RAW, SURF and PAL (00_scope.md
R12), byte order (20_memory.md R43, R47), and the commit or error of a command (00_scope.md R13, 60_exceptions.md
R183), which is this engine's only form of taking an exception. No return from one exists (R184). -/

namespace Sys2Proof.Machine

open Sys2Proof

/-! ### Memories -/

/-- The value at an address; none where nothing has written it. -/
def Memory.read {α : Type} : Memory α → Nat → Option α
  | [], _ => none
  | (k, v) :: rest, a => if k = a then some v else Memory.read rest a

/-- Writing one address, at its place in the rising order. -/
def Memory.write {α : Type} : Memory α → Nat → α → Memory α
  | [], a, v => [(a, v)]
  | (k, w) :: rest, a, v =>
    if a < k then (a, v) :: (k, w) :: rest
    else if k = a then (a, v) :: rest
    else (k, w) :: Memory.write rest a v

/-- Writing a list of values from an address upward. -/
def Memory.writeAll {α : Type} : Memory α → Nat → List α → Memory α
  | m, _, [] => m
  | m, a, v :: vs => Memory.writeAll (Memory.write m a v) (a + 1) vs

/-- Every address of the memory is at least `lo`, and the addresses rise strictly. -/
def Memory.risesFrom {α : Type} : Nat → Memory α → Bool
  | _, [] => true
  | lo, (k, _) :: rest => decide (lo ≤ k) && Memory.risesFrom (k + 1) rest

/-- The canonical form. An address not listed holds no value, so no entry can repeat what it reads as. -/
def Memory.wf {α : Type} (m : Memory α) : Bool := Memory.risesFrom 0 m

/-- Every address of the memory is below `hi`. -/
def Memory.below {α : Type} (hi : Nat) : Memory α → Bool
  | [] => true
  | (k, _) :: rest => decide (k < hi) && Memory.below hi rest

/-! ### Bytes, words and pixels -/

/-- B[i] of a byte sequence (R11). Every use has i below the length (41_plane_decode.md R90; log 12). -/
def byteAt (B : List Byte) (i : Nat) : Byte := B.getD i 0

/-- B[a..b) of a byte sequence, empty when a ≥ b (R11). -/
def slice (B : List Byte) (a b : Nat) : List Byte := (B.drop a).take (b - a)

/-- The Word16 of two bytes, high byte first (R47). -/
def wordOfBytes (hi lo : Byte) : Word16 := hi ++ lo

/-- The two bytes of a Word16, high byte first (R47). -/
def bytesOfWord (w : Word16) : List Byte := [w.extractLsb' 8 8, w.extractLsb' 0 8]

/-- The register word of a pixel: R [31:24], G [23:16], B [15:8], A [7:0] (10_state.md R33, 20_memory.md R41). -/
def pixelToWord (p : Pixel) : Word32 := p.r ++ p.g ++ p.b ++ p.a

/-- The pixel of a register word (10_state.md R33, 20_memory.md R41). -/
def pixelOfWord (v : Word32) : Pixel :=
  ⟨v.extractLsb' 24 8, v.extractLsb' 16 8, v.extractLsb' 8 8, v.extractLsb' 0 8⟩

/-! ### RAW -/

/-- RAW[a] as a command or the host reads it: what was last written there, or, where nothing was, a value nothing
constrains (10_state.md R36; log 3). -/
def State.rawByte (s : State) (a : Nat) : Byte := (s.raw.read a).getD (Config.rawPowerOn a)

/-- RawBytes(a, b), the byte sequence RAW[a..b) (R12). -/
def State.rawBytes (s : State) (a b : Nat) : List Byte := (List.range (b - a)).map fun j => s.rawByte (a + j)

/-- MemRead(a, n): the n bytes RAW[a..a+n) read big-endian (R12, 20_memory.md R43). -/
def State.memRead (s : State) (a n : Nat) : Nat :=
  ((List.range n).map fun j => (s.rawByte (a + j)).toNat <<< (8 * (n - 1 - j))).sum

/-- MemWrite(a, n, v): v written big-endian to RAW[a..a+n) (R12, 20_memory.md R43). -/
def State.memWrite (s : State) (a n v : Nat) : State :=
  { s with raw := s.raw.writeAll a ((List.range n).map fun j => BitVec.ofNat 8 (v >>> (8 * (n - 1 - j)))) }

/-- Writes a byte sequence to RAW from index 0. -/
def State.writeRaw (s : State) (B : List Byte) : State := { s with raw := s.raw.writeAll 0 B }

/-- Sets RAW_LEN.LEN, keeping the low 32 bits (00_scope.md R10; log 6). -/
def State.setRawLen (s : State) (n : Nat) : State := { s with rawLen := BitVec.ofNat 32 n }

/-- Writes a produced texture: its bytes from RAW[0], and its length (10_state.md R28). -/
def State.storeTexture (s : State) (B : List Byte) : State := (s.writeRaw B).setRawLen B.length

/-! ### SURF -/

/-- SurfRead(k) (R12): what was last written to SURF[k], or, where nothing was, a value nothing constrains
(10_state.md R36; log 4). -/
def State.surfRead (s : State) (k : Nat) : Pixel := (s.surf.read k).getD (Config.surfPowerOn k)

/-- The pixels SURF[0..n). -/
def State.surfPixels (s : State) (n : Nat) : List Pixel := (List.range n).map s.surfRead

/-- SurfWrite(k, px[k]) for every k (R12). -/
def State.writeSurf (s : State) (px : List Pixel) : State := { s with surf := s.surf.writeAll 0 px }

/-! ### PAL -/

/-- PAL[i], and 0 at an index of 256 or more (20_memory.md R42). -/
def palEntry (pal : Palette) (i : Nat) : Word16 := pal[i]?.getD 0

/-- The entries pal[0..n). -/
def palPrefix (pal : Palette) (n : Nat) : List Word16 := pal.toList.take n

/-- The palette whose entry i is f i. -/
def palTabulate (f : Nat → Word16) : Palette := ⟨⟨(List.range 256).map f⟩, by simp⟩

/-- The all-zero table (43_palette.md R140). -/
def palZero : Palette := Vector.replicate 256 0

/-- Writes PAL and PAL_COUNT together (43_palette.md R140, R141). -/
def State.storePalette (s : State) (pal : Palette) (count : Nat) : State :=
  { s with pal := pal, palCount := BitVec.ofNat 9 count }

/-! ### The end of a command -/

/-- `raise E` from the state at issue: STATUS.ERR takes the code, and nothing else changes (60_exceptions.md R183). -/
def State.raise (s : State) (e : ErrorKind) : State := { s with err := e.code }

/-- `STATUS.ERR <- 0`, the last write of a command that completes. -/
def State.succeed (s : State) : State := { s with err := completedCode }

/-- The commit of a command issued in state s (00_scope.md R13): its collected writes if no `raise` was reached, and
otherwise the error alone. Either way the engine has a next state. -/
def commit (s : State) (r : Except ErrorKind State) : Host.Outcome State Fault Refusal :=
  .next (match r with
    | .error e => s.raise e
    | .ok t => t.succeed)

end Sys2Proof.Machine
end

