-- ==== Sys2Proof/Machine/Operands.lean ====
section
/-! DEFINITION. The operands of a command (30_encoding.md R64), the attributes of the formats (R61), which codes an
operation admits (R62, R63), and the geometry (20_memory.md R44). -/

namespace Sys2Proof

/-- bpp(fmt), bits per pixel (R61). -/
def Format.bpp : Format → Nat
  | .rgba32 => 32
  | .rgba16 => 16
  | .i4 => 4
  | .i8 => 8
  | .ia4 => 4
  | .ia8 => 8
  | .ia16 => 16
  | .ci4 => 4
  | .ci8 => 8

/-- The indexed format a format is; none exactly where isCI(fmt) is "no" (R61). -/
def Format.ci? : Format → Option CIFormat
  | .rgba32 => none
  | .rgba16 => none
  | .i4 => none
  | .i8 => none
  | .ia4 => none
  | .ia8 => none
  | .ia16 => none
  | .ci4 => some .ci4
  | .ci8 => some .ci8

/-- CAP(fmt), the palette capacity, which only the indexed formats have (R61). -/
def CIFormat.cap : CIFormat → Nat
  | .ci4 => 16
  | .ci8 => 256

/-- The bytes a palette takes in RAW, 2*CAP(fmt) (43_palette.md R130). -/
def CIFormat.paletteSize (c : CIFormat) : Nat := 2 * c.cap

end Sys2Proof

namespace Sys2Proof.Machine

open Sys2Proof

/-- W, the texture width in pixels: WIDTH.W, zero-extended (R64). -/
def State.imgWidth (s : State) : Nat := s.width.toNat

/-- H, the texture height in rows: HEIGHT.H, zero-extended (R64). -/
def State.imgHeight (s : State) : Nat := s.height.toNat

/-- W*H, exact over the naturals (00_scope.md R9). -/
def State.imgPixels (s : State) : Nat := s.imgWidth * s.imgHeight

/-- L, the input length: RAW_LEN.LEN, zero-extended (R64). -/
def State.rawLength (s : State) : Nat := s.rawLen.toNat

/-- count: PAL_COUNT.COUNT, zero-extended (R64). -/
def State.paletteCount (s : State) : Nat := s.palCount.toNat

/-- The format of a command's FMT field, where the operation admits every format (R63). -/
def admitFormat (fmt : FmtCode) : Except ErrorKind Format :=
  match Format.ofCode fmt with
  | some f => .ok f
  | none => .error .unsupportedFormat

/-- The format of a palette command's FMT field: only CI4 and CI8 are admitted (R63). -/
def admitIndexed (fmt : FmtCode) : Except ErrorKind CIFormat :=
  match Format.ofCode fmt with
  | some f =>
    match f.ci? with
    | some c => .ok c
    | none => .error .unsupportedFormat
  | none => .error .unsupportedFormat

/-- bpr(fmt, W), bytes per row (20_memory.md R44). -/
def bytesPerRow (bpp W : Nat) : Nat := W * bpp / 8

/-- planeBytes(fmt, W, H) (20_memory.md R44). -/
def planeBytes (f : Format) (W H : Nat) : Nat := H * bytesPerRow f.bpp W

/-- The check of 60_exceptions.md R181 level 4: two pixels share a byte and W is odd. -/
def oddWidth (f : Format) (W : Nat) : Bool := decide (f.bpp = 4) && decide (W % 2 = 1)

end Sys2Proof.Machine
end

