-- ==== Sys2Proof/Machine/BitPack.lean ====
section
/-! DEFINITION. The Bit-Pack Codec, rgba_5551_unpacker (40_bitpack.md R80 to R85). -/

namespace Sys2Proof.Machine

open Sys2Proof

/-- The channel of a 5-bit field: shifted left by 3, zeros below, not bit-replicated (R80). -/
def expand5 (v : BitVec 5) : Byte := v ++ 0#3

/-- unpack5551: red [15:11], green [10:6], blue [5:1], alpha [0] (R80). -/
def unpack5551 (w : Word16) : Pixel :=
  ⟨expand5 (w.extractLsb' 11 5), expand5 (w.extractLsb' 6 5), expand5 (w.extractLsb' 1 5),
    if w.getLsbD 0 then 255 else 0⟩

/-- pack5551: the top 5 bits of each color, truncated; alpha is 1 exactly when a > 128 (R81). -/
def pack5551 (p : Pixel) : Word16 :=
  p.r.extractLsb' 3 5 ++ p.g.extractLsb' 3 5 ++ p.b.extractLsb' 3 5 ++ BitVec.ofBool (decide (128#8 < p.a))

/-- UNPACK5551: WORD to PIXEL; FMT is ignored (R82). -/
def execUnpack5551 (_fmt : FmtCode) (s : State) : Host.Outcome State Fault Refusal :=
  commit s (.ok { s with pixel := unpack5551 s.word })

/-- PACK5551: PIXEL to WORD; FMT is ignored (R83). -/
def execPack5551 (_fmt : FmtCode) (s : State) : Host.Outcome State Fault Refusal :=
  commit s (.ok { s with word := pack5551 s.pixel })

end Sys2Proof.Machine
end

