-- ==== Sys2Proof/Machine/PlaneDecode.lean ====
section
/-! DEFINITION. The Format Plane Codec, decode side (41_plane_decode.md R90 to R100). -/

namespace Sys2Proof.Machine

open Sys2Proof

/-- The nibble of pixel k at 4 bpp: the high one when k is even, the left pixel (20_memory.md R45). -/
def nibbleAt (B : List Byte) (k : Nat) : BitVec 4 :=
  if k % 2 = 0 then (byteAt B (k / 2)).extractLsb' 4 4 else (byteAt B (k / 2)).extractLsb' 0 4

/-- px_RGBA32 (R92). -/
def pxRgba32 (B : List Byte) (k : Nat) : Pixel :=
  ⟨byteAt B (4 * k), byteAt B (4 * k + 1), byteAt B (4 * k + 2), byteAt B (4 * k + 3)⟩

/-- px_RGBA16 (R93). -/
def pxRgba16 (B : List Byte) (k : Nat) : Pixel :=
  unpack5551 (wordOfBytes (byteAt B (2 * k)) (byteAt B (2 * k + 1)))

/-- px_I4: the nibble kept in, or shifted to, the high position; alpha 255 (R94, 90_conflicts.md C7). -/
def pxI4 (B : List Byte) (k : Nat) : Pixel :=
  let v := byteAt B (k / 2)
  let i := if k % 2 = 0 then v &&& 0xF0#8 else (v &&& 0x0F#8) <<< 4
  ⟨i, i, i, 255⟩

/-- px_I8 (R95). -/
def pxI8 (B : List Byte) (k : Nat) : Pixel := ⟨byteAt B k, byteAt B k, byteAt B k, 255⟩

/-- px_IA4: intensity in nibble bits [3:1], shifted left by 5; alpha in bit [0] (R96). -/
def pxIa4 (B : List Byte) (k : Nat) : Pixel :=
  let nib := nibbleAt B k
  let i : Byte := nib.extractLsb' 1 3 ++ 0#5
  ⟨i, i, i, if nib.getLsbD 0 then 255 else 0⟩

/-- px_IA8: the high nibble in place, the low nibble shifted to the top (R97). -/
def pxIa8 (B : List Byte) (k : Nat) : Pixel :=
  let v := byteAt B k
  let i := v &&& 0xF0#8
  ⟨i, i, i, (v &&& 0x0F#8) <<< 4⟩

/-- px_IA16: intensity, then alpha (R98). -/
def pxIa16 (B : List Byte) (k : Nat) : Pixel :=
  ⟨byteAt B (2 * k), byteAt B (2 * k), byteAt B (2 * k), byteAt B (2 * k + 1)⟩

/-- px_CI4: the nibble indexes the palette (R99). -/
def pxCi4 (B : List Byte) (pal : Palette) (k : Nat) : Pixel := unpack5551 (palEntry pal (nibbleAt B k).toNat)

/-- px_CI8: the byte indexes the palette (R100). -/
def pxCi8 (B : List Byte) (pal : Palette) (k : Nat) : Pixel := unpack5551 (palEntry pal (byteAt B k).toNat)

/-- px_fmt(B, k, pal), pixel k of a plane (R90). -/
def planePixel (f : Format) (B : List Byte) (pal : Palette) (k : Nat) : Pixel :=
  match f with
  | .rgba32 => pxRgba32 B k
  | .rgba16 => pxRgba16 B k
  | .i4 => pxI4 B k
  | .i8 => pxI8 B k
  | .ia4 => pxIa4 B k
  | .ia8 => pxIa8 B k
  | .ia16 => pxIa16 B k
  | .ci4 => pxCi4 B pal k
  | .ci8 => pxCi8 B pal k

/-- planeDecode(fmt, B, W, H, pal): the n = W*H pixels of a plane (R90). -/
def planeDecode (f : Format) (B : List Byte) (n : Nat) (pal : Palette) : List Pixel :=
  (List.range n).map (planePixel f B pal)

/-- The common body of PLANE_DECODE (R91). -/
def planeDecodeBody (f : Format) (s : State) : Except ErrorKind State :=
  if oddWidth f s.imgWidth then .error .oddWidthUnsupported
  else if s.rawCap < s.rawLength ∨ s.surfCap < s.imgPixels then .error .capacityExceeded
  else if s.rawLength < planeBytes f s.imgWidth s.imgHeight then .error .truncatedInput
  else
    let B := s.rawBytes 0 (planeBytes f s.imgWidth s.imgHeight)
    .ok (s.writeSurf (planeDecode f B s.imgPixels s.pal))

/-- PLANE_DECODE RGBA32 (R92). -/
def execPlaneDecodeRgba32 (s : State) : Host.Outcome State Fault Refusal := commit s (planeDecodeBody .rgba32 s)

/-- PLANE_DECODE RGBA16 (R93). -/
def execPlaneDecodeRgba16 (s : State) : Host.Outcome State Fault Refusal := commit s (planeDecodeBody .rgba16 s)

/-- PLANE_DECODE I4 (R94). -/
def execPlaneDecodeI4 (s : State) : Host.Outcome State Fault Refusal := commit s (planeDecodeBody .i4 s)

/-- PLANE_DECODE I8 (R95). -/
def execPlaneDecodeI8 (s : State) : Host.Outcome State Fault Refusal := commit s (planeDecodeBody .i8 s)

/-- PLANE_DECODE IA4 (R96). -/
def execPlaneDecodeIa4 (s : State) : Host.Outcome State Fault Refusal := commit s (planeDecodeBody .ia4 s)

/-- PLANE_DECODE IA8 (R97). -/
def execPlaneDecodeIa8 (s : State) : Host.Outcome State Fault Refusal := commit s (planeDecodeBody .ia8 s)

/-- PLANE_DECODE IA16 (R98). -/
def execPlaneDecodeIa16 (s : State) : Host.Outcome State Fault Refusal := commit s (planeDecodeBody .ia16 s)

/-- PLANE_DECODE CI4 (R99). -/
def execPlaneDecodeCi4 (s : State) : Host.Outcome State Fault Refusal := commit s (planeDecodeBody .ci4 s)

/-- PLANE_DECODE CI8 (R100). -/
def execPlaneDecodeCi8 (s : State) : Host.Outcome State Fault Refusal := commit s (planeDecodeBody .ci8 s)

end Sys2Proof.Machine
end

