-- ==== Sys2Proof/Machine/Palette.lean ====
section
/-! DEFINITION. The Palette (TLUT) Manager, palette_manager (43_palette.md R130 to R143). -/

namespace Sys2Proof.Machine

open Sys2Proof

/-- The loop of paletteExtend (R131): the pixels in row-major order, each color not yet among pal[0..count)
appended. Colors are compared as packed words. -/
def paletteScan (cap : Nat) : Palette → Nat → List Pixel → Except ErrorKind (Palette × Nat)
  | pal, count, [] => .ok (pal, count)
  | pal, count, p :: rest =>
    if pack5551 p ∈ palPrefix pal count then paletteScan cap pal count rest
    else if count = cap then .error .paletteOverflow
    else paletteScan cap (pal.setIfInBounds count (pack5551 p)) (count + 1) rest

/-- paletteExtend(pal0, count0, px, cap) (R131). -/
def paletteExtend (pal : Palette) (count : Nat) (px : List Pixel) (cap : Nat) : Except ErrorKind (Palette × Nat) :=
  if cap < count then .error .paletteOverflow else paletteScan cap pal count px

/-- paletteIndex(pal, count, c): the least i below count with pal[i] = c (R132). It is called only where one exists
(42_plane_encode.md R110; log 13). -/
def paletteIndex (pal : Palette) (count : Nat) (c : Word16) : Nat := (palPrefix pal count).idxOf c

/-- paletteBytes(pal, count, cap): cap entries big-endian, zero at and above count (R133). -/
def paletteBytes (pal : Palette) (count cap : Nat) : List Byte :=
  (List.range cap).flatMap fun i => bytesOfWord (if i < count then palEntry pal i else 0)

/-- paletteParse(B, cap): cap big-endian entries, the rest of the table 0 (R134). -/
def paletteParse (B : List Byte) (cap : Nat) : Palette :=
  palTabulate fun i => if i < cap then wordOfBytes (byteAt B (2 * i)) (byteAt B (2 * i + 1)) else 0

/-- splitPalette(B, cap, atStart), with nb = 2*cap: the palette bytes and the rest (R135). -/
def splitPalette (B : List Byte) (nb : Nat) (atStart : Bool) : Except ErrorKind (List Byte × List Byte) :=
  if B.length < nb then .error .malformedPalette
  else if atStart then .ok (slice B 0 nb, slice B nb B.length)
  else .ok (slice B (B.length - nb) B.length, slice B 0 (B.length - nb))

/-- Palette bytes attached at the head or the tail (20_memory.md R46). -/
def attachPalette (pb B : List Byte) (atStart : Bool) : List Byte := if atStart then pb ++ B else B ++ pb

/-- The body of PAL_BUILD (R140). -/
def palBuildBody (c : CIFormat) (s : State) : Except ErrorKind State :=
  if s.surfCap < s.imgPixels then .error .capacityExceeded
  else
    match paletteExtend palZero 0 (s.surfPixels s.imgPixels) c.cap with
    | .error e => .error e
    | .ok (pal, count) => .ok (s.storePalette pal count)

/-- The body of PAL_READ (R141). -/
def palReadBody (c : CIFormat) (s : State) : Except ErrorKind State :=
  if s.rawCap < s.rawLength then .error .capacityExceeded
  else
    match splitPalette (s.rawBytes 0 s.rawLength) c.paletteSize s.palAtStart with
    | .error e => .error e
    | .ok (pb, rest) =>
      .ok (((s.storePalette (paletteParse pb c.cap) c.cap).writeRaw rest).setRawLen
        (s.rawLength - c.paletteSize))

/-- The body of PAL_WRITE (R142). -/
def palWriteBody (c : CIFormat) (s : State) : Except ErrorKind State :=
  if s.rawCap < s.rawLength then .error .capacityExceeded
  else if c.cap < s.paletteCount then .error .paletteOverflow
  else if s.rawCap < s.rawLength + c.paletteSize then .error .capacityExceeded
  else
    let pb := paletteBytes s.pal s.paletteCount c.cap
    let out := attachPalette pb (s.rawBytes 0 s.rawLength) s.palAtStart
    .ok ((s.writeRaw out).setRawLen (s.rawLength + c.paletteSize))

/-- A palette command: the format check first (30_encoding.md R63), then its body. -/
def withIndexed (fmt : FmtCode) (body : CIFormat → Except ErrorKind State) : Except ErrorKind State :=
  match admitIndexed fmt with
  | .error e => .error e
  | .ok c => body c

/-- PAL_BUILD: the palette of the image in SURF, built from empty (R140). -/
def execPalBuild (fmt : FmtCode) (s : State) : Host.Outcome State Fault Refusal :=
  commit s (withIndexed fmt fun c => palBuildBody c s)

/-- PAL_READ: the palette taken from the head or tail of RAW (R141). -/
def execPalRead (fmt : FmtCode) (s : State) : Host.Outcome State Fault Refusal :=
  commit s (withIndexed fmt fun c => palReadBody c s)

/-- PAL_WRITE: the palette attached at the head or tail of RAW (R142). -/
def execPalWrite (fmt : FmtCode) (s : State) : Host.Outcome State Fault Refusal :=
  commit s (withIndexed fmt fun c => palWriteBody c s)

end Sys2Proof.Machine
end

