-- ==== Sys2Proof/Machine/PlaneEncode.lean ====
section
/-! DEFINITION. The Format Plane Codec, encode side (42_plane_encode.md R110 to R121). -/

namespace Sys2Proof.Machine

open Sys2Proof

/-- Two pixels a byte, the left (even) one in the high nibble (R110). The number of pixels is even, since W is. -/
def packNibbles : List (BitVec 4) → List Byte
  | left :: right :: rest => (left ++ right) :: packNibbles rest
  | _ => []

/-- enc_RGBA32 (R112). -/
def encRgba32 (p : Pixel) : List Byte := [p.r, p.g, p.b, p.a]

/-- enc_RGBA16 (R113). -/
def encRgba16 (p : Pixel) : List Byte := bytesOfWord (pack5551 p)

/-- nib_I4: the top nibble of red (R114). -/
def nibI4 (p : Pixel) : BitVec 4 := p.r.extractLsb' 4 4

/-- enc_I8: red (R115). -/
def encI8 (p : Pixel) : List Byte := [p.r]

/-- nib_IA4: the top 3 bits of red, then alpha ≥ 128, not > 128 (R116, 90_conflicts.md C8). -/
def nibIa4 (p : Pixel) : BitVec 4 := p.r.extractLsb' 5 3 ++ BitVec.ofBool (decide (128#8 ≤ p.a))

/-- enc_IA8: the top nibbles of red and alpha (R117). -/
def encIa8 (p : Pixel) : List Byte := [(p.r &&& 0xF0#8) ||| (p.a >>> 4)]

/-- enc_IA16: red, then alpha (R118). -/
def encIa16 (p : Pixel) : List Byte := [p.r, p.a]

/-- nib_CI4: the palette index of the packed color (R119). -/
def nibCi4 (pal : Palette) (count : Nat) (p : Pixel) : BitVec 4 :=
  BitVec.ofNat 4 (paletteIndex pal count (pack5551 p))

/-- enc_CI8: the palette index of the packed color (R120). -/
def encCi8 (pal : Palette) (count : Nat) (p : Pixel) : List Byte :=
  [BitVec.ofNat 8 (paletteIndex pal count (pack5551 p))]

/-- planeEncode(fmt, px, W, H, pal, count): the bytes of the pixels in order (R110). -/
def planeEncode (f : Format) (px : List Pixel) (pal : Palette) (count : Nat) : List Byte :=
  match f with
  | .rgba32 => px.flatMap encRgba32
  | .rgba16 => px.flatMap encRgba16
  | .i4 => packNibbles (px.map nibI4)
  | .i8 => px.flatMap encI8
  | .ia4 => packNibbles (px.map nibIa4)
  | .ia8 => px.flatMap encIa8
  | .ia16 => px.flatMap encIa16
  | .ci4 => packNibbles (px.map (nibCi4 pal count))
  | .ci8 => px.flatMap (encCi8 pal count)

/-- The palette an encode uses: for an indexed format, the given one extended by the image's colors (43_palette.md
R131); for another format it is not used and stays as given. -/
def encodePalette (f : Format) (pal : Palette) (count : Nat) (px : List Pixel) : Except ErrorKind (Palette × Nat) :=
  match f.ci? with
  | none => .ok (pal, count)
  | some c => paletteExtend pal count px c.cap

/-- `if isCI(fmt): PAL <- pal; PAL_COUNT.COUNT <- count` (R111, 45_convert.md R161). -/
def State.storeIfIndexed (s : State) (f : Format) (pal : Palette) (count : Nat) : State :=
  match f.ci? with
  | none => s
  | some _ => s.storePalette pal count

/-- The common body of PLANE_ENCODE (R111). -/
def planeEncodeBody (f : Format) (s : State) : Except ErrorKind State :=
  if oddWidth f s.imgWidth then .error .oddWidthUnsupported
  else if s.surfCap < s.imgPixels then .error .capacityExceeded
  else
    let px := s.surfPixels s.imgPixels
    match encodePalette f s.pal s.paletteCount px with
    | .error e => .error e
    | .ok (pal, count) =>
      if s.rawCap < planeBytes f s.imgWidth s.imgHeight then .error .capacityExceeded
      else
        let B := planeEncode f px pal count
        .ok (((s.writeRaw B).setRawLen (planeBytes f s.imgWidth s.imgHeight)).storeIfIndexed f pal count)

/-- PLANE_ENCODE RGBA32 (R112). -/
def execPlaneEncodeRgba32 (s : State) : Host.Outcome State Fault Refusal := commit s (planeEncodeBody .rgba32 s)

/-- PLANE_ENCODE RGBA16 (R113). -/
def execPlaneEncodeRgba16 (s : State) : Host.Outcome State Fault Refusal := commit s (planeEncodeBody .rgba16 s)

/-- PLANE_ENCODE I4 (R114). -/
def execPlaneEncodeI4 (s : State) : Host.Outcome State Fault Refusal := commit s (planeEncodeBody .i4 s)

/-- PLANE_ENCODE I8 (R115). -/
def execPlaneEncodeI8 (s : State) : Host.Outcome State Fault Refusal := commit s (planeEncodeBody .i8 s)

/-- PLANE_ENCODE IA4 (R116). -/
def execPlaneEncodeIa4 (s : State) : Host.Outcome State Fault Refusal := commit s (planeEncodeBody .ia4 s)

/-- PLANE_ENCODE IA8 (R117). -/
def execPlaneEncodeIa8 (s : State) : Host.Outcome State Fault Refusal := commit s (planeEncodeBody .ia8 s)

/-- PLANE_ENCODE IA16 (R118). -/
def execPlaneEncodeIa16 (s : State) : Host.Outcome State Fault Refusal := commit s (planeEncodeBody .ia16 s)

/-- PLANE_ENCODE CI4 (R119). -/
def execPlaneEncodeCi4 (s : State) : Host.Outcome State Fault Refusal := commit s (planeEncodeBody .ci4 s)

/-- PLANE_ENCODE CI8 (R120). -/
def execPlaneEncodeCi8 (s : State) : Host.Outcome State Fault Refusal := commit s (planeEncodeBody .ci8 s)

end Sys2Proof.Machine
end

