-- ==== Sys2Proof/Machine/Swizzle.lean ====
section
/-! DEFINITION. The Tile Swizzle Transform (44_swizzle.md R150 to R154). -/

namespace Sys2Proof.Machine

open Sys2Proof

/-- The chunk in bytes: 16 at 32 bpp, 8 otherwise (R150). -/
def chunkSize (bpp : Nat) : Nat := if bpp = 32 then 16 else 8

/-- An odd row: the halves of every whole chunk swapped, the trailing partial chunk dropped (R150). -/
def swapRow (chunk bpr : Nat) (row : List Byte) : List Byte :=
  (List.range (bpr / chunk)).flatMap fun c =>
    let ch := slice row (c * chunk) (c * chunk + chunk)
    slice ch (chunk / 2) chunk ++ slice ch 0 (chunk / 2)

/-- swizzle(B, W, H, bpp): even rows unchanged, odd rows swapped, rows counted from 0 (R150). -/
def swizzle (B : List Byte) (W H bpp : Nat) : List Byte :=
  let bpr := bytesPerRow bpp W
  (List.range H).flatMap fun i =>
    let row := slice B (i * bpr) (i * bpr + bpr)
    if i % 2 = 0 then row else swapRow (chunkSize bpp) bpr row

/-- The bytes an odd row has beyond its whole chunks, r = bpr mod chunk (R153). -/
def partialChunk (bpp W : Nat) : Nat := bytesPerRow bpp W % chunkSize bpp

/-- A chunk-clean geometry (R154): no partial chunk, or no odd row. -/
def chunkClean (bpp W H : Nat) : Bool := decide (partialChunk bpp W = 0) || decide (H ≤ 1)

/-- The swizzle as a whole-texture command applies it: only when CTRL.SWZ_EN = 1 (45_convert.md R160, R161). -/
def swizzleIf (en : Bool) (B : List Byte) (W H bpp : Nat) : List Byte := if en then swizzle B W H bpp else B

/-- The body of SWIZZLE (R151). -/
def swizzleBody (f : Format) (s : State) : Except ErrorKind State :=
  if !s.swzEn then .ok s
  else if oddWidth f s.imgWidth then .error .oddWidthUnsupported
  else if s.rawCap < s.rawLength then .error .capacityExceeded
  else if s.rawLength < planeBytes f s.imgWidth s.imgHeight then .error .truncatedInput
  else
    let B := s.rawBytes 0 (planeBytes f s.imgWidth s.imgHeight)
    .ok (s.storeTexture (swizzle B s.imgWidth s.imgHeight f.bpp))

/-- A command that admits every format: the format check first (30_encoding.md R63), then its body. -/
def withFormat (fmt : FmtCode) (body : Format → Except ErrorKind State) : Except ErrorKind State :=
  match admitFormat fmt with
  | .error e => .error e
  | .ok f => body f

/-- SWIZZLE: the transform applied to the texture in RAW, in place (R151). -/
def execSwizzle (fmt : FmtCode) (s : State) : Host.Outcome State Fault Refusal :=
  commit s (withFormat fmt fun f => swizzleBody f s)

end Sys2Proof.Machine
end

