-- ==== Sys2Proof/Machine/Convert.lean ====
section
/-! DEFINITION. Whole-texture decode and encode, and NOP (45_convert.md R160 to R164). -/

namespace Sys2Proof.Machine

open Sys2Proof

/-- The palette a DECODE uses and the bytes left for the plane: split off for an indexed format, otherwise PAL as it
stands and all the bytes (R160). -/
def decodePalette (f : Format) (s : State) (B : List Byte) : Except ErrorKind (Palette × List Byte) :=
  match f.ci? with
  | none => .ok (s.pal, B)
  | some c =>
    match splitPalette B c.paletteSize s.palAtStart with
    | .error e => .error e
    | .ok (pb, rest) => .ok (paletteParse pb c.cap, rest)

/-- `if isCI(fmt): PAL <- pal; PAL_COUNT.COUNT <- CAP(fmt)` (R160). -/
def State.loadIfIndexed (s : State) (f : Format) (pal : Palette) : State :=
  match f.ci? with
  | none => s
  | some c => s.storePalette pal c.cap

/-- The body of DECODE (R160). -/
def decodeBody (f : Format) (s : State) : Except ErrorKind State :=
  if oddWidth f s.imgWidth then .error .oddWidthUnsupported
  else if s.rawCap < s.rawLength ∨ s.surfCap < s.imgPixels then .error .capacityExceeded
  else
    match decodePalette f s (s.rawBytes 0 s.rawLength) with
    | .error e => .error e
    | .ok (pal, rest) =>
      let P := planeBytes f s.imgWidth s.imgHeight
      if rest.length < P then .error .truncatedInput
      else
        let B := swizzleIf s.swzEn (slice rest 0 P) s.imgWidth s.imgHeight f.bpp
        if B.length < P then .error .truncatedInput
        else .ok ((s.writeSurf (planeDecode f B s.imgPixels pal)).loadIfIndexed f pal)

/-- The bytes of an ENCODE's output: the plane, swizzled when enabled, with the palette of an indexed format attached
(R161, 20_memory.md R46). -/
def encodeTexture (f : Format) (s : State) (px : List Pixel) (pal : Palette) (count : Nat) : List Byte :=
  let B := swizzleIf s.swzEn (planeEncode f px pal count) s.imgWidth s.imgHeight f.bpp
  match f.ci? with
  | none => B
  | some c => attachPalette (paletteBytes pal count c.cap) B s.palAtStart

/-- The body of ENCODE (R161): the palette of an indexed format is always built from empty. -/
def encodeBody (f : Format) (s : State) : Except ErrorKind State :=
  if oddWidth f s.imgWidth then .error .oddWidthUnsupported
  else if s.surfCap < s.imgPixels then .error .capacityExceeded
  else
    let px := s.surfPixels s.imgPixels
    match encodePalette f palZero 0 px with
    | .error e => .error e
    | .ok (pal, count) =>
      let B := encodeTexture f s px pal count
      if s.rawCap < B.length then .error .capacityExceeded
      else .ok ((s.storeTexture B).storeIfIndexed f pal count)

/-- DECODE: the raw texture in RAW decoded into SURF (R160). -/
def execDecode (fmt : FmtCode) (s : State) : Host.Outcome State Fault Refusal :=
  commit s (withFormat fmt fun f => decodeBody f s)

/-- ENCODE: the image in SURF encoded into RAW (R161). -/
def execEncode (fmt : FmtCode) (s : State) : Host.Outcome State Fault Refusal :=
  commit s (withFormat fmt fun f => encodeBody f s)

/-- NOP: nothing but `STATUS.ERR <- 0`; FMT is ignored (R162). -/
def execNop (_fmt : FmtCode) (s : State) : Host.Outcome State Fault Refusal := commit s (.ok s)

end Sys2Proof.Machine
end

