-- ==== Sys2Proof/Machine/Dispatch.lean ====
section
/-! DEFINITION. The dispatch: one arm per row of spec/opcode_table.json, each a direct call of its meaning. -/

namespace Sys2Proof.Machine

open Sys2Proof

def exec (i : Instr) (s : State) : Host.Outcome State Fault Refusal :=
  match i with
  | .nop fmt => Sys2Proof.Machine.execNop fmt s
  | .decode fmt => Sys2Proof.Machine.execDecode fmt s
  | .encode fmt => Sys2Proof.Machine.execEncode fmt s
  | .planeDecodeRgba32 => Sys2Proof.Machine.execPlaneDecodeRgba32 s
  | .planeDecodeRgba16 => Sys2Proof.Machine.execPlaneDecodeRgba16 s
  | .planeDecodeI4 => Sys2Proof.Machine.execPlaneDecodeI4 s
  | .planeDecodeI8 => Sys2Proof.Machine.execPlaneDecodeI8 s
  | .planeDecodeIa4 => Sys2Proof.Machine.execPlaneDecodeIa4 s
  | .planeDecodeIa8 => Sys2Proof.Machine.execPlaneDecodeIa8 s
  | .planeDecodeIa16 => Sys2Proof.Machine.execPlaneDecodeIa16 s
  | .planeDecodeCi4 => Sys2Proof.Machine.execPlaneDecodeCi4 s
  | .planeDecodeCi8 => Sys2Proof.Machine.execPlaneDecodeCi8 s
  | .planeEncodeRgba32 => Sys2Proof.Machine.execPlaneEncodeRgba32 s
  | .planeEncodeRgba16 => Sys2Proof.Machine.execPlaneEncodeRgba16 s
  | .planeEncodeI4 => Sys2Proof.Machine.execPlaneEncodeI4 s
  | .planeEncodeI8 => Sys2Proof.Machine.execPlaneEncodeI8 s
  | .planeEncodeIa4 => Sys2Proof.Machine.execPlaneEncodeIa4 s
  | .planeEncodeIa8 => Sys2Proof.Machine.execPlaneEncodeIa8 s
  | .planeEncodeIa16 => Sys2Proof.Machine.execPlaneEncodeIa16 s
  | .planeEncodeCi4 => Sys2Proof.Machine.execPlaneEncodeCi4 s
  | .planeEncodeCi8 => Sys2Proof.Machine.execPlaneEncodeCi8 s
  | .palBuild fmt => Sys2Proof.Machine.execPalBuild fmt s
  | .palRead fmt => Sys2Proof.Machine.execPalRead fmt s
  | .palWrite fmt => Sys2Proof.Machine.execPalWrite fmt s
  | .swizzle fmt => Sys2Proof.Machine.execSwizzle fmt s
  | .unpack5551 fmt => Sys2Proof.Machine.execUnpack5551 fmt s
  | .pack5551 fmt => Sys2Proof.Machine.execPack5551 fmt s

end Sys2Proof.Machine
end

