-- ==== Sys2Proof/Machine/HostPort.lean ====
section
/-! DEFINITION. The host port: the register space (10_state.md R22 to R34), host access to RAW, SURF and PAL
(20_memory.md R41 to R43), issuing a command (10_state.md R26), and the reset input (70_reset_and_hazards.md R200). -/

namespace Sys2Proof.Machine

open Sys2Proof

/-- The registers of the map of R22. -/
inductive Reg where
  | ctrl | width | height | cmd | status | rawLen | palCount | word | pixel
deriving DecidableEq, Repr

/-- The register at a byte offset; every other offset is reserved (R22, R34). -/
def regAt (offset : Nat) : Option Reg :=
  if offset = 0x00 then some .ctrl
  else if offset = 0x04 then some .width
  else if offset = 0x08 then some .height
  else if offset = 0x0C then some .cmd
  else if offset = 0x10 then some .status
  else if offset = 0x14 then some .rawLen
  else if offset = 0x18 then some .palCount
  else if offset = 0x1C then some .word
  else if offset = 0x20 then some .pixel
  else none

/-- The byte offset of a register (R22). -/
def regOffset : Reg → Nat
  | .ctrl => 0x00
  | .width => 0x04
  | .height => 0x08
  | .cmd => 0x0C
  | .status => 0x10
  | .rawLen => 0x14
  | .palCount => 0x18
  | .word => 0x1C
  | .pixel => 0x20

/-- The word a register reads as: its fields, reserved bits 0, CMD 0 (R23 to R33). -/
def State.regWord (s : State) : Reg → Word32
  | .ctrl => 0#30 ++ BitVec.ofBool s.palAtStart ++ BitVec.ofBool s.swzEn
  | .width => s.width.zeroExtend 32
  | .height => s.height.zeroExtend 32
  | .cmd => 0
  | .status => s.err.zeroExtend 32
  | .rawLen => s.rawLen
  | .palCount => s.palCount.zeroExtend 32
  | .word => s.word.zeroExtend 32
  | .pixel => pixelToWord s.pixel

/-- A host write of a register that issues no command: the writable fields take their bits; a write of a read-only
register is ignored, and CMD keeps nothing (R23 to R33). -/
def State.setReg (s : State) (r : Reg) (v : Word32) : State :=
  match r with
  | .ctrl => { s with swzEn := v.getLsbD 0, palAtStart := v.getLsbD 1 }
  | .width => { s with width := v.extractLsb' 0 16 }
  | .height => { s with height := v.extractLsb' 0 16 }
  | .cmd => s
  | .status => s
  | .rawLen => { s with rawLen := v }
  | .palCount => s
  | .word => { s with word := v.extractLsb' 0 16 }
  | .pixel => { s with pixel := pixelOfWord v }

/-- A host read of the register space; a reserved offset reads 0 (R34). -/
def State.hostReadReg (s : State) (offset : Nat) : Word32 :=
  match regAt offset with
  | some r => s.regWord r
  | none => 0

/-- A host read of RAW; 0 outside it (20_memory.md R43). -/
def State.hostReadRaw (s : State) (a : Nat) : Byte := if a < s.rawCap then s.rawByte a else 0

/-- A host write of RAW; ignored outside it (20_memory.md R43). -/
def State.hostWriteRaw (s : State) (a : Nat) (v : Byte) : State :=
  if a < s.rawCap then { s with raw := s.raw.write a v } else s

/-- A host read of SURF; 0 outside it (20_memory.md R41). -/
def State.hostReadSurf (s : State) (k : Nat) : Pixel := if k < s.surfCap then s.surfRead k else ⟨0, 0, 0, 0⟩

/-- A host write of SURF; ignored outside it (20_memory.md R41). -/
def State.hostWriteSurf (s : State) (k : Nat) (p : Pixel) : State :=
  if k < s.surfCap then { s with surf := s.surf.write k p } else s

/-- A host read of PAL; 0 outside it (20_memory.md R42). -/
def State.hostReadPal (s : State) (i : Nat) : Word16 := palEntry s.pal i

/-- A host write of PAL; ignored outside it, and PAL_COUNT does not change (20_memory.md R42). -/
def State.hostWritePal (s : State) (i : Nat) (v : Word16) : State := { s with pal := s.pal.setIfInBounds i v }

/-- The datum of a read, returned to the host (log 9). -/
def State.respond (s : State) (d : HostData) : State := { s with response := some d }

/-- The datum as a 32-bit host port carries it: a pixel in the PIXEL layout (20_memory.md R41), the narrower units
zero-extended (log 9). -/
def HostData.portWord : HostData → Word32
  | .word v => v
  | .byte v => v.zeroExtend 32
  | .pixel p => pixelToWord p
  | .entry v => v.zeroExtend 32

/-- A word written to CMD: the command it encodes, or the error of a word that encodes none (R26, 30_encoding.md R63,
R65). -/
def issue (c : Word32) (s : State) : Host.Outcome State Fault Refusal :=
  match decode c with
  | .ok i => exec i s
  | .error r => .next (s.raise (rejectError r))

/-- A host write of the register space; a reserved offset ignores it (R34). -/
def hostWriteReg (offset : Nat) (v : Word32) (s : State) : Host.Outcome State Fault Refusal :=
  match regAt offset with
  | some .cmd => issue v s
  | some r => .next (s.setReg r v)
  | none => .next s

/-- The reset input asserted while the engine is powered (70_reset_and_hazards.md R200): every register and PAL take
their reset values; RAW and SURF keep their contents; the instance and the host are not the engine's to reset
(log 10). -/
def State.assertReset (s : State) : State :=
  { State.reset with
    raw := s.raw, surf := s.surf, rawCap := s.rawCap, surfCap := s.surfCap,
    pending := s.pending, response := s.response }

/-- One host event. -/
def perform (e : HostEvent) (s : State) : Host.Outcome State Fault Refusal :=
  match e with
  | .writeReg offset v => hostWriteReg offset v s
  | .readReg offset => .next (s.respond (.word (s.hostReadReg offset)))
  | .writeRaw a v => .next (s.hostWriteRaw a v)
  | .readRaw a => .next (s.respond (.byte (s.hostReadRaw a)))
  | .writeSurf k p => .next (s.hostWriteSurf k p)
  | .readSurf k => .next (s.respond (.pixel (s.hostReadSurf k)))
  | .writePal i v => .next (s.hostWritePal i v)
  | .readPal i => .next (s.respond (.entry (s.hostReadPal i)))
  | .assertReset => .next s.assertReset
  | .losePower => .refused .powerLost

/-- The state with the rest of the host's events pending. -/
def State.setPending (s : State) (rest : List HostEvent) : State := { s with pending := rest }

/-- One step: the host's next event, taken off the list, is performed (20_memory.md R50; log 1). With none the engine
is idle (70_reset_and_hazards.md R200; log 2). -/
def stepEvent (s : State) : Host.Outcome State Fault Refusal :=
  match s.pending with
  | [] => .next s
  | e :: rest => perform e (s.setPending rest)

/-- The event `WR <reg>, <value>` (30_encoding.md R67). -/
def eventWr (r : Reg) (v : Word32) : HostEvent := .writeReg (regOffset r) v

/-- The event `RD <reg>` (R67). -/
def eventRd (r : Reg) : HostEvent := .readReg (regOffset r)

/-- The event `CMD <command>`: shorthand for `WR CMD, <word of command>` (R67). -/
def eventCmd (i : Instr) : HostEvent := eventWr .cmd (encode i)

/-- The events `WRRAW <a>, <b0> <b1> ...` (R67). -/
def eventsWrRaw : Nat → List Byte → List HostEvent
  | _, [] => []
  | a, b :: rest => .writeRaw a b :: eventsWrRaw (a + 1) rest

/-- The events `WRSURF <k>, (r,g,b,a) ...` (R67). -/
def eventsWrSurf : Nat → List Pixel → List HostEvent
  | _, [] => []
  | k, p :: rest => .writeSurf k p :: eventsWrSurf (k + 1) rest

/-- The events `WRPAL <i>, <v0> <v1> ...` (R67). -/
def eventsWrPal : Nat → List Word16 → List HostEvent
  | _, [] => []
  | i, v :: rest => .writePal i v :: eventsWrPal (i + 1) rest

end Sys2Proof.Machine
end

