-- ==== Sys2Proof/Machine/Step.lean ====
section
/-! DEFINITION. The step function: one host event (Machine/HostPort.lean). -/

namespace Sys2Proof.Machine

open Sys2Proof

/-- One step of the machine. -/
def step (s : State) : Host.Outcome State Fault Refusal := stepEvent s

/-- The state in which the host's next event is the write of a command word to CMD, so that the very next step issues
it (10_state.md R26; log 1). -/
def State.withFetchWord (s : State) (nbits w : Nat) : State :=
  s.setPending (eventWr .cmd (BitVec.ofNat 32 (w % 2 ^ nbits)) :: s.pending)

end Sys2Proof.Machine
end

