-- ==== Sys2Proof/Safety.lean ====
section
/-! DEFINITION. The terms the statements use: what a legal state is, what a safe step is, and the shapes of claim that
several commands share. Nothing here is part of the machine. -/

namespace Sys2Proof

/-- The FMT code of an indexed format (30_encoding.md R61). -/
def CIFormat.code : CIFormat → FmtCode
  | .ci4 => 7
  | .ci8 => 8

/-- The format of an indexed format (R61). -/
def CIFormat.format : CIFormat → Format
  | .ci4 => .ci4
  | .ci8 => .ci8

/-- The instruction is a command of an indexed format (30_encoding.md R61). -/
def Instr.indexed (i : Instr) : Bool := FmtCode.indexed i.fmt

end Sys2Proof

namespace Sys2Proof.Machine

open Sys2Proof

/-! ### Legal states and safe steps -/

/-- A legal state: both memories in canonical form and within their capacities (20_memory.md R43), STATUS.ERR no
reserved code (60_exceptions.md R180), PAL_COUNT at most 256 (10_state.md R30). -/
def State.inv (s : State) : Bool :=
  s.raw.wf && s.surf.wf && s.raw.below s.rawCap && s.surf.below s.surfCap && decide (s.err.toNat ≤ 7) &&
    decide (s.palCount.toNat ≤ 256)

/-- The step has a next state. -/
def safeStep (s : State) : Prop := ∃ t, step s = .next t

/-! ### Shapes of claim -/

/-- The command issued in s ends with an error: STATUS.ERR takes the code and nothing else changes (60_exceptions.md
R183). -/
def failsWith (i : Instr) (s : State) (code : BitVec 4) : Prop := exec i s = .next { s with err := code }

/-- Two pixels share a byte and the width is odd (60_exceptions.md R181 level 4). -/
abbrev oddPair (bpp : Nat) (s : State) : Prop := bpp = 4 ∧ s.imgWidth % 2 = 1

/-- The plane's size in bytes, W*H*bpp/8 (20_memory.md R44). -/
abbrev planeSize (bpp : Nat) (s : State) : Nat := s.imgPixels * bpp / 8

/-- RAW_LEN > RAW_CAP or W*H > SURF_CAP (60_exceptions.md R181 level 5). -/
abbrev overCapacity (s : State) : Prop := s.rawCap < s.rawLength ∨ s.surfCap < s.imgPixels

/-- A command of PLANE_DECODE (41_plane_decode.md R91): its word; its three errors, in order; and otherwise pixel k of
the W*H pixels becomes `pix s k`, every other pixel and everything else but STATUS.ERR as before. -/
def planeDecodeMeets (i : Instr) (c : Word32) (bpp : Nat) (pix : State → Nat → Pixel) : Prop :=
  decode c = .ok i ∧ ∀ s : State,
    (oddPair bpp s → failsWith i s 4) ∧
    (¬ oddPair bpp s → overCapacity s → failsWith i s 7) ∧
    (¬ oddPair bpp s → ¬ overCapacity s → s.rawLength < planeSize bpp s → failsWith i s 2) ∧
    (¬ oddPair bpp s → ¬ overCapacity s → planeSize bpp s ≤ s.rawLength →
      ∃ t, exec i s = .next t ∧ t = { s with surf := t.surf, err := 0 } ∧
        (∀ k, k < s.imgPixels → t.surf.read k = some (pix s k)) ∧
        ∀ k, s.imgPixels ≤ k → t.surf.read k = s.surf.read k)

/-- A command of PLANE_ENCODE of a format without palette (42_plane_encode.md R111): its word; its errors, in order;
and otherwise byte j of the plane becomes `byteOf s j`, RAW_LEN its size where 32 bits hold it, every other byte and
everything else but STATUS.ERR as before. -/
def planeEncodeMeets (i : Instr) (c : Word32) (bpp : Nat) (byteOf : State → Nat → Byte) : Prop :=
  decode c = .ok i ∧ ∀ s : State,
    (oddPair bpp s → failsWith i s 4) ∧
    (¬ oddPair bpp s → s.surfCap < s.imgPixels → failsWith i s 7) ∧
    (¬ oddPair bpp s → s.imgPixels ≤ s.surfCap → s.rawCap < planeSize bpp s → failsWith i s 7) ∧
    (¬ oddPair bpp s → s.imgPixels ≤ s.surfCap → planeSize bpp s ≤ s.rawCap →
      ∃ t, exec i s = .next t ∧
        t = { s with raw := t.raw, rawLen := t.rawLen, err := 0 } ∧
        (planeSize bpp s < 2 ^ 32 → t.rawLength = planeSize bpp s) ∧
        (∀ j, j < planeSize bpp s → t.raw.read j = some (byteOf s j)) ∧
        ∀ a, planeSize bpp s ≤ a → t.raw.read a = s.raw.read a)

/-- The pixels of the image, SURF[0..W*H). -/
def State.image (s : State) : List Pixel := s.surfPixels s.imgPixels

/-- The same for an indexed format (R111, R119, R120): the palette is extended by the image's colors first, and byte j
is `byteOf pal count s j` for the extended palette, which PAL and PAL_COUNT then hold. -/
def planeEncodeIndexedMeets (i : Instr) (c : Word32) (bpp cap : Nat)
    (byteOf : Palette → Nat → State → Nat → Byte) : Prop :=
  decode c = .ok i ∧ ∀ s : State,
    (oddPair bpp s → failsWith i s 4) ∧
    (¬ oddPair bpp s → s.surfCap < s.imgPixels → failsWith i s 7) ∧
    (¬ oddPair bpp s → s.imgPixels ≤ s.surfCap →
      paletteExtend s.pal s.paletteCount s.image cap = .error .paletteOverflow → failsWith i s 3) ∧
    (∀ pal count, ¬ oddPair bpp s → s.imgPixels ≤ s.surfCap →
      paletteExtend s.pal s.paletteCount s.image cap = .ok (pal, count) →
      s.rawCap < planeSize bpp s → failsWith i s 7) ∧
    (∀ pal count, ¬ oddPair bpp s → s.imgPixels ≤ s.surfCap →
      paletteExtend s.pal s.paletteCount s.image cap = .ok (pal, count) →
      planeSize bpp s ≤ s.rawCap →
      ∃ t, exec i s = .next t ∧
        t = { s with raw := t.raw, rawLen := t.rawLen, pal := pal, palCount := t.palCount, err := 0 } ∧
        (planeSize bpp s < 2 ^ 32 → t.rawLength = planeSize bpp s) ∧
        t.paletteCount = count ∧
        (∀ j, j < planeSize bpp s → t.raw.read j = some (byteOf pal count s j)) ∧
        ∀ a, planeSize bpp s ≤ a → t.raw.read a = s.raw.read a)

/-- The index of the color of image pixel k in a palette (43_palette.md R132). -/
def colorIndex (pal : Palette) (count : Nat) (s : State) (k : Nat) : Nat :=
  paletteIndex pal count (pack5551 (s.surfRead k))

/-- The distinct packed colors of the image, in first-seen order (43_palette.md R131). -/
def State.distinctColors (s : State) : List Word16 := (s.image.map pack5551).eraseDups

/-- The packed colors of some pixels that a palette of n entries lacks, each once, in first-seen order (R131). -/
def newColors (pal : Palette) (n : Nat) (px : List Pixel) : List Word16 :=
  ((px.map pack5551).filter fun c => decide (c ∉ palPrefix pal n)).eraseDups

/-- The pixel a plane encode followed by a plane decode gives back (42_plane_encode.md R121). -/
def lossy (f : Format) (p : Pixel) : Pixel :=
  let through5551 : Pixel := ⟨p.r &&& 0xF8, p.g &&& 0xF8, p.b &&& 0xF8, if 128#8 < p.a then 255 else 0⟩
  match f with
  | .rgba32 => p
  | .rgba16 => through5551
  | .i4 => ⟨p.r &&& 0xF0, p.r &&& 0xF0, p.r &&& 0xF0, 255⟩
  | .i8 => ⟨p.r, p.r, p.r, 255⟩
  | .ia4 => ⟨p.r &&& 0xE0, p.r &&& 0xE0, p.r &&& 0xE0, if 128#8 ≤ p.a then 255 else 0⟩
  | .ia8 => ⟨p.r &&& 0xF0, p.r &&& 0xF0, p.r &&& 0xF0, p.a &&& 0xF0⟩
  | .ia16 => ⟨p.r, p.r, p.r, p.a⟩
  | .ci4 => through5551
  | .ci8 => through5551

/-- A pixel that RGBA-5551 holds exactly (40_bitpack.md R84). -/
def exact5551 (p : Pixel) : Prop :=
  p.r.toNat % 8 = 0 ∧ p.g.toNat % 8 = 0 ∧ p.b.toNat % 8 = 0 ∧ (p.a = 0 ∨ p.a = 255)

/-- The pixels a format holds exactly (42_plane_encode.md R121, last column). -/
def lossless (f : Format) (p : Pixel) : Prop :=
  match f with
  | .rgba32 => True
  | .rgba16 => exact5551 p
  | .i4 => p.r = p.g ∧ p.g = p.b ∧ p.r.toNat % 16 = 0 ∧ p.a = 255
  | .i8 => p.r = p.g ∧ p.g = p.b ∧ p.a = 255
  | .ia4 => p.r = p.g ∧ p.g = p.b ∧ p.r.toNat % 32 = 0 ∧ (p.a = 0 ∨ p.a = 255)
  | .ia8 => p.r = p.g ∧ p.g = p.b ∧ p.r.toNat % 16 = 0 ∧ p.a.toNat % 16 = 0
  | .ia16 => p.r = p.g ∧ p.g = p.b
  | .ci4 => exact5551 p
  | .ci8 => exact5551 p

/-- The error codes a command word with RSV = 0 and an assigned OP can leave in STATUS.ERR (60_exceptions.md R180
column "raised by", R182), and 0. -/
def errorCodes : Op → List (BitVec 4)
  | .nop => [0]
  | .decode => [0, 1, 4, 7, 5, 2]
  | .encode => [0, 1, 4, 7, 3]
  | .planeDecode => [0, 1, 4, 7, 2]
  | .planeEncode => [0, 1, 4, 7, 3]
  | .palBuild => [0, 1, 7, 3]
  | .palRead => [0, 1, 7, 5]
  | .palWrite => [0, 1, 7, 3]
  | .swizzle => [0, 1, 4, 7, 2]
  | .unpack5551 => [0]
  | .pack5551 => [0]

/-- Two states that differ at most in the bytes of RAW at and beyond RAW_LEN (10_state.md R35). -/
def sameTexture (s t : State) : Prop :=
  t = { s with raw := t.raw } ∧ ∀ a, a < s.rawLength → t.rawByte a = s.rawByte a

end Sys2Proof.Machine
end

