-- ==== Sys2Proof/Certificates/Slice0/Obligations.lean ====
section
/-! DEFINITION. The statements for the provers. Each docstring names the rule of spec/ it formalises. -/

open Sys2Proof Sys2Proof.Machine

/-! ### Encoding -/

/-- The encoding examples of 30_encoding.md R68, every row. -/
def Obligations.CommandWordExamplesDecode : Prop :=
  decode 0x00000000 = .ok (.nop 0) ∧
  decode 0x00000001 = .ok (.decode 0) ∧
  decode 0x00000701 = .ok (.decode 7) ∧
  decode 0x00000302 = .ok (.encode 3) ∧
  decode 0x00000702 = .ok (.encode 7) ∧
  decode 0x00000410 = .ok .planeDecodeIa4 ∧
  decode 0x00000811 = .ok .planeEncodeCi8 ∧
  decode 0x00000820 = .ok (.palBuild 8) ∧
  decode 0x00000721 = .ok (.palRead 7) ∧
  decode 0x00000722 = .ok (.palWrite 7) ∧
  decode 0x00000130 = .ok (.swizzle 1) ∧
  decode 0x00000040 = .ok (.unpack5551 0) ∧
  decode 0x00000041 = .ok (.pack5551 0) ∧
  ∀ s : State,
    issue 0x00000901 s = .next { s with err := 1 } ∧
    issue 0x00000320 s = .next { s with err := 1 } ∧
    issue 0x00000005 s = .next { s with err := 6 } ∧
    issue 0x00001001 s = .next { s with err := 6 }

/-- Decode and encode agree in both directions, over every word and every instruction with every operand
(30_encoding.md R60 to R62, R65). -/
def Obligations.DecodeAnswersExactlyTheEncodings : Prop :=
  ∀ (c : Word32) (i : Instr), decode c = .ok i ↔ c = encode i

/-- The decoding steps of 30_encoding.md R63, in order: RSV, then OP, then the commands that ignore FMT, then the
format; in every other case the word's command executes, in a form its operation admits. -/
def Obligations.IssueFollowsTheDecodingSteps : Prop :=
  ∀ (c : Word32) (s : State),
    (rsvField c ≠ 0 → issue c s = .next { s with err := 6 }) ∧
    (rsvField c = 0 →
      opField c ∉ [0x00, 0x01, 0x02, 0x10, 0x11, 0x20, 0x21, 0x22, 0x30, 0x40, 0x41] →
      issue c s = .next { s with err := 6 }) ∧
    (rsvField c = 0 → opField c ∈ [0x00, 0x40, 0x41] →
      ∃ i, decode c = .ok i ∧ i.op.code = opField c ∧ issue c s = exec i s ∧
        ∀ d, rsvField d = 0 → opField d = opField c → issue d s = issue c s) ∧
    (rsvField c = 0 → opField c ∈ [0x01, 0x02, 0x10, 0x11, 0x20, 0x21, 0x22, 0x30] →
      (8 < (fmtField c).toNat → issue c s = .next { s with err := 1 }) ∧
      ((fmtField c).toNat ≤ 8 → opField c ∈ [0x20, 0x21, 0x22] → (fmtField c).toNat < 7 →
        issue c s = .next { s with err := 1 }) ∧
      ((fmtField c).toNat ≤ 8 → (opField c ∈ [0x20, 0x21, 0x22] → 7 ≤ (fmtField c).toNat) →
        ∃ i, decode c = .ok i ∧ i.wf = true ∧ i.op.code = opField c ∧ i.fmt = fmtField c ∧ issue c s = exec i s))

/-! ### The step and the host -/

/-- A step performs the host's next event, whichever it is, with that event taken off the list (model's choice, log 1);
where the event writes a word to CMD (10_state.md R26), that is exec of the decoded instruction, or the error of a word
that decodes to none; with no event pending the step changes nothing (model's choice, log 2). -/
def Obligations.StepRunsTheDecodedCommand : Prop :=
  ∀ (s : State) (c : Word32) (rest : List HostEvent),
    (s.pending = [] → step s = .next s) ∧
    (∀ e, s.pending = e :: rest → step s = perform e { s with pending := rest }) ∧
    (s.pending = .writeReg 0x0C c :: rest →
      (∀ i, decode c = .ok i → step s = exec i { s with pending := rest }) ∧
      ∀ r, decode c = .error r → step s = .next { s with pending := rest, err := (rejectError r).code })

/-- A word placed for the fetch runs: the step issues the instruction whose encoding it is, and runs it on the state as
it was (model's choice, log 1). -/
def Obligations.PlacedWordRunsTheEncodedInstruction : Prop :=
  ∀ (i : Instr) (s : State), step (s.withFetchWord 32 (encode i).toNat) = exec i s

/-- Writing a register of the map and reading it back (10_state.md R22 to R34): a writable register reads as the word
with its reserved bits 0, a read-only register as before, CMD as 0, a reserved offset as 0; the read changes nothing
but the host's datum. CMD itself is left out of the write: it issues a command. -/
def Obligations.RegisterReadsBackWhatWasWritten : Prop :=
  ∀ (s : State) (offset : Nat) (v : Word32), offset ≠ 0x0C →
    ∃ t, perform (.writeReg offset v) s = .next t ∧
      perform (.readReg offset) t = .next { t with response := some (.word (t.hostReadReg offset)) } ∧
      t.hostReadReg 0x0C = 0 ∧
      t.hostReadReg offset =
        (if offset = 0x00 then v &&& 0x3
        else if offset = 0x04 ∨ offset = 0x08 ∨ offset = 0x1C then v &&& 0xFFFF
        else if offset = 0x14 ∨ offset = 0x20 then v
        else s.hostReadReg offset) ∧
      (∀ other, other ≠ offset → t.hostReadReg other = s.hostReadReg other) ∧
      t = { s with
        swzEn := t.swzEn, palAtStart := t.palAtStart, width := t.width, height := t.height, rawLen := t.rawLen,
        word := t.word, pixel := t.pixel }

/-- Reserved offsets (10_state.md R34). -/
def Obligations.ReservedOffsetsReadZeroAndIgnoreWrites : Prop :=
  ∀ (s : State) (offset : Nat) (v : Word32), (0x24 ≤ offset ∨ offset % 4 ≠ 0) →
    perform (.writeReg offset v) s = .next s ∧
    perform (.readReg offset) s = .next { s with response := some (.word 0) }

/-- Host access to RAW (20_memory.md R43): one byte at a time, 0 and ignored outside the buffer, and a read has no
side effect (R49). -/
def Obligations.HostAccessToRaw : Prop :=
  ∀ (s : State) (a : Nat) (v : Byte),
    (a < s.rawCap → ∃ t, perform (.writeRaw a v) s = .next t ∧ t = { s with raw := t.raw } ∧
      t.raw.read a = some v ∧ ∀ b, b ≠ a → t.raw.read b = s.raw.read b) ∧
    (a < s.rawCap → perform (.readRaw a) s = .next { s with response := some (.byte (s.rawByte a)) }) ∧
    (s.rawCap ≤ a → perform (.writeRaw a v) s = .next s ∧
      perform (.readRaw a) s = .next { s with response := some (.byte 0) })

/-- Host access to SURF (20_memory.md R41): one pixel at a time, in the PIXEL layout on a 32-bit port, 0 and ignored
outside the surface. -/
def Obligations.HostAccessToSurf : Prop :=
  ∀ (s : State) (k : Nat) (p : Pixel),
    (k < s.surfCap → ∃ t, perform (.writeSurf k p) s = .next t ∧ t = { s with surf := t.surf } ∧
      t.surf.read k = some p ∧ ∀ j, j ≠ k → t.surf.read j = s.surf.read j) ∧
    (k < s.surfCap → perform (.readSurf k) s = .next { s with response := some (.pixel (s.surfRead k)) }) ∧
    (s.surfCap ≤ k → perform (.writeSurf k p) s = .next s ∧
      perform (.readSurf k) s = .next { s with response := some (.pixel ⟨0, 0, 0, 0⟩) }) ∧
    (HostData.portWord (.pixel p)).extractLsb' 24 8 = p.r ∧ (HostData.portWord (.pixel p)).extractLsb' 16 8 = p.g ∧
    (HostData.portWord (.pixel p)).extractLsb' 8 8 = p.b ∧ (HostData.portWord (.pixel p)).extractLsb' 0 8 = p.a

/-- Host access to PAL (20_memory.md R42): one entry at a time, PAL_COUNT unchanged, 0 and ignored at 256 and above. -/
def Obligations.HostAccessToPal : Prop :=
  ∀ (s : State) (i : Nat) (v : Word16),
    (i < 256 → ∃ t, perform (.writePal i v) s = .next t ∧ t = { s with pal := t.pal } ∧
      palEntry t.pal i = v ∧ ∀ j, j ≠ i → palEntry t.pal j = palEntry s.pal j) ∧
    (i < 256 → perform (.readPal i) s = .next { s with response := some (.entry (palEntry s.pal i)) }) ∧
    (256 ≤ i → perform (.writePal i v) s = .next s ∧
      perform (.readPal i) s = .next { s with response := some (.entry 0) })

/-- The reset values of 10_state.md R36; the unspecified cells of RAW and SURF are unwritten. -/
def Obligations.ResetHoldsTheSpecifiedValues : Prop :=
  State.reset.swzEn = true ∧ State.reset.palAtStart = false ∧ State.reset.width = 0 ∧ State.reset.height = 0 ∧
  State.reset.err = 0 ∧ State.reset.rawLen = 0 ∧ State.reset.palCount = 0 ∧
  (∀ i, i < 256 → State.reset.pal[i]? = some 0) ∧ State.reset.word = 0 ∧ State.reset.pixel = ⟨0, 0, 0, 0⟩ ∧
  (∀ a, State.reset.raw.read a = none) ∧ ∀ k, State.reset.surf.read k = none

/-- The reset input while powered (70_reset_and_hazards.md R200): every register and PAL at their reset values, RAW
and SURF as they were; and a loss of power has no next state (model's choice, log 10 and log 11). -/
def Obligations.ResetInputKeepsRawAndSurf : Prop :=
  ∀ (s : State) (rest : List HostEvent),
    (s.pending = .assertReset :: rest → ∃ t, step s = .next t ∧
      t = { State.reset with
        raw := t.raw, surf := t.surf, rawCap := s.rawCap, surfCap := s.surfCap, pending := rest,
        response := s.response } ∧
      (∀ a, t.raw.read a = s.raw.read a) ∧ ∀ k, t.surf.read k = s.surf.read k) ∧
    (s.pending = .losePower :: rest → step s = .refused .powerLost)

/-- The engine's multi-byte accesses are big-endian (20_memory.md R43, R47, 00_scope.md R12): what MemWrite wrote MemRead
gives back, byte j is the one j places below the most significant, and every byte outside is as before; and a two-byte
access is the Word16 of two bytes, and the two bytes of a Word16, as the commands read and write them. -/
def Obligations.MultiByteAccessIsBigEndian : Prop :=
  (∀ (s : State) (a n v : Nat), v < 256 ^ n →
    (s.memWrite a n v).memRead a n = v ∧
    (∀ j, j < n → ((s.memWrite a n v).rawByte (a + j)).toNat = v / 256 ^ (n - 1 - j) % 256) ∧
    (∀ b, b < a ∨ a + n ≤ b → (s.memWrite a n v).raw.read b = s.raw.read b) ∧
    s.memWrite a n v = { s with raw := (s.memWrite a n v).raw }) ∧
  ∀ (s : State) (a : Nat) (w : Word16),
    s.memRead a 2 = (wordOfBytes (s.rawByte a) (s.rawByte (a + 1))).toNat ∧
    s.memWrite a 2 w.toNat = { s with raw := s.raw.writeAll a (bytesOfWord w) } ∧
    (s.memWrite a 2 w.toNat).rawBytes a (a + 2) = bytesOfWord w

/-! ### Errors -/

/-- Every word written to CMD has a next state; where it leaves an error code it changed nothing else, and issuing it
again gives the same state again (60_exceptions.md R183, R184, 70_reset_and_hazards.md R208). -/
def Obligations.FailedCommandChangesOnlyTheErrorCode : Prop :=
  ∀ (c : Word32) (s : State), ∃ t, issue c s = .next t ∧
    (t.err ≠ 0 → t = { s with err := t.err } ∧ issue c t = .next t)

/-- Which codes each command can leave in STATUS.ERR (60_exceptions.md R180, R182). -/
def Obligations.CommandsLeaveOnlyTheirOwnErrorCodes : Prop :=
  ∀ (c : Word32) (op : Op) (s t : State), rsvField c = 0 → opField c = op.code → issue c s = .next t →
    t.err ∈ errorCodes op

/-! ### Bit-pack codec -/

/-- UNPACK5551 (40_bitpack.md R80, R82). -/
def Obligations.Unpack5551SplitsTheWord : Prop :=
  (∀ fmt : FmtCode, decode (0#20 ++ fmt ++ 0x40#8) = .ok (.unpack5551 fmt)) ∧
  (∀ (c : Word32) (s : State), opField c = 0x40 → rsvField c ≠ 0 → issue c s = .next { s with err := 6 }) ∧
  ∀ (fmt : FmtCode) (s : State), ∃ t, exec (.unpack5551 fmt) s = .next t ∧
    t = { s with pixel := t.pixel, err := 0 } ∧ t.pixel = unpack5551 s.word ∧
    t.pixel.r.toNat = s.word.toNat / 2 ^ 11 % 32 * 8 ∧
    t.pixel.g.toNat = s.word.toNat / 2 ^ 6 % 32 * 8 ∧
    t.pixel.b.toNat = s.word.toNat / 2 % 32 * 8 ∧
    t.pixel.a.toNat = (if s.word.toNat % 2 = 1 then 255 else 0)

/-- PACK5551 (40_bitpack.md R81, R83). -/
def Obligations.Pack5551KeepsTheTopBits : Prop :=
  (∀ fmt : FmtCode, decode (0#20 ++ fmt ++ 0x41#8) = .ok (.pack5551 fmt)) ∧
  (∀ (c : Word32) (s : State), opField c = 0x41 → rsvField c ≠ 0 → issue c s = .next { s with err := 6 }) ∧
  ∀ (fmt : FmtCode) (s : State), ∃ t, exec (.pack5551 fmt) s = .next t ∧
    t = { s with word := t.word, err := 0 } ∧ t.word = pack5551 s.pixel ∧
    t.word.toNat =
      s.pixel.r.toNat / 8 * 2 ^ 11 + s.pixel.g.toNat / 8 * 2 ^ 6 + s.pixel.b.toNat / 8 * 2 +
        (if 128 < s.pixel.a.toNat then 1 else 0)

/-- Round trip through a word (40_bitpack.md R85). -/
def Obligations.WordRoundTripIsExact : Prop :=
  (∀ w, pack5551 (unpack5551 w) = w) ∧ ∀ v w, unpack5551 v = unpack5551 w → v = w

/-- Round trip through a pixel (40_bitpack.md R84). -/
def Obligations.PixelRoundTripLosesTheLowBits : Prop :=
  ∀ p : Pixel,
    unpack5551 (pack5551 p) = ⟨p.r &&& 0xF8, p.g &&& 0xF8, p.b &&& 0xF8, if 128#8 < p.a then 255 else 0⟩ ∧
    p.r.toNat - (unpack5551 (pack5551 p)).r.toNat = p.r.toNat % 8 ∧
    p.g.toNat - (unpack5551 (pack5551 p)).g.toNat = p.g.toNat % 8 ∧
    p.b.toNat - (unpack5551 (pack5551 p)).b.toNat = p.b.toNat % 8 ∧
    (p.a.toNat ≤ 128 → p.a.toNat - (unpack5551 (pack5551 p)).a.toNat = p.a.toNat) ∧
    (128 < p.a.toNat → (unpack5551 (pack5551 p)).a.toNat - p.a.toNat = 255 - p.a.toNat) ∧
    (unpack5551 (pack5551 p) = p ↔ exact5551 p)

/-! ### Plane decode -/

/-- PLANE_DECODE RGBA32 (41_plane_decode.md R92). -/
def Obligations.PlaneDecodeRgba32CopiesFourBytes : Prop :=
  planeDecodeMeets .planeDecodeRgba32 0x00000010 32 fun s k =>
    ⟨s.rawByte (4 * k), s.rawByte (4 * k + 1), s.rawByte (4 * k + 2), s.rawByte (4 * k + 3)⟩

/-- PLANE_DECODE RGBA16 (R93). -/
def Obligations.PlaneDecodeRgba16UnpacksBigEndianWords : Prop :=
  planeDecodeMeets .planeDecodeRgba16 0x00000110 16 fun s k =>
    unpack5551 (BitVec.ofNat 16 (256 * (s.rawByte (2 * k)).toNat + (s.rawByte (2 * k + 1)).toNat))

/-- PLANE_DECODE I4 (R94). -/
def Obligations.PlaneDecodeI4PlacesTheNibbleHigh : Prop :=
  planeDecodeMeets .planeDecodeI4 0x00000210 4 fun s k =>
    let v := (s.rawByte (k / 2)).toNat
    let i := BitVec.ofNat 8 (if k % 2 = 0 then v / 16 * 16 else v % 16 * 16)
    ⟨i, i, i, 255⟩

/-- PLANE_DECODE I8 (R95). -/
def Obligations.PlaneDecodeI8CopiesTheIntensity : Prop :=
  planeDecodeMeets .planeDecodeI8 0x00000310 8 fun s k =>
    ⟨s.rawByte k, s.rawByte k, s.rawByte k, 255⟩

/-- PLANE_DECODE IA4 (R96). -/
def Obligations.PlaneDecodeIa4ReadsIntensityAndAlphaBit : Prop :=
  planeDecodeMeets .planeDecodeIa4 0x00000410 4 fun s k =>
    let v := (s.rawByte (k / 2)).toNat
    let nib := if k % 2 = 0 then v / 16 else v % 16
    let i := BitVec.ofNat 8 (nib / 2 * 32)
    ⟨i, i, i, if nib % 2 = 1 then 255 else 0⟩

/-- PLANE_DECODE IA8 (R97). -/
def Obligations.PlaneDecodeIa8SplitsTheByte : Prop :=
  planeDecodeMeets .planeDecodeIa8 0x00000510 8 fun s k =>
    let v := (s.rawByte k).toNat
    let i := BitVec.ofNat 8 (v / 16 * 16)
    ⟨i, i, i, BitVec.ofNat 8 (v % 16 * 16)⟩

/-- PLANE_DECODE IA16 (R98). -/
def Obligations.PlaneDecodeIa16CopiesIntensityAndAlpha : Prop :=
  planeDecodeMeets .planeDecodeIa16 0x00000610 16 fun s k =>
    ⟨s.rawByte (2 * k), s.rawByte (2 * k), s.rawByte (2 * k), s.rawByte (2 * k + 1)⟩

/-- PLANE_DECODE CI4 (R99). -/
def Obligations.PlaneDecodeCi4LooksUpTheNibble : Prop :=
  planeDecodeMeets .planeDecodeCi4 0x00000710 4 fun s k =>
    let v := (s.rawByte (k / 2)).toNat
    unpack5551 (palEntry s.pal (if k % 2 = 0 then v / 16 else v % 16))

/-- PLANE_DECODE CI8 (R100). -/
def Obligations.PlaneDecodeCi8LooksUpTheByte : Prop :=
  planeDecodeMeets .planeDecodeCi8 0x00000810 8 fun s k => unpack5551 (palEntry s.pal (s.rawByte k).toNat)

/-! ### Plane encode -/

/-- PLANE_ENCODE RGBA32 (42_plane_encode.md R112). -/
def Obligations.PlaneEncodeRgba32WritesFourBytes : Prop :=
  planeEncodeMeets .planeEncodeRgba32 0x00000011 32 fun s j =>
    let p := s.surfRead (j / 4)
    if j % 4 = 0 then p.r else if j % 4 = 1 then p.g else if j % 4 = 2 then p.b else p.a

/-- PLANE_ENCODE RGBA16 (R113). -/
def Obligations.PlaneEncodeRgba16WritesBigEndianWords : Prop :=
  planeEncodeMeets .planeEncodeRgba16 0x00000111 16 fun s j =>
    let w := (pack5551 (s.surfRead (j / 2))).toNat
    BitVec.ofNat 8 (if j % 2 = 0 then w / 256 else w % 256)

/-- PLANE_ENCODE I4 (R114). -/
def Obligations.PlaneEncodeI4PacksTheTopNibblesOfRed : Prop :=
  planeEncodeMeets .planeEncodeI4 0x00000211 4 fun s j =>
    BitVec.ofNat 8
      ((s.surfRead (2 * j)).r.toNat / 16 * 16 + (s.surfRead (2 * j + 1)).r.toNat / 16)

/-- PLANE_ENCODE I8 (R115). -/
def Obligations.PlaneEncodeI8WritesRed : Prop :=
  planeEncodeMeets .planeEncodeI8 0x00000311 8 fun s j => (s.surfRead j).r

/-- PLANE_ENCODE IA4 (R116). -/
def Obligations.PlaneEncodeIa4PacksIntensityAndAlphaBit : Prop :=
  planeEncodeMeets .planeEncodeIa4 0x00000411 4 fun s j =>
    let nib : Pixel → Nat := fun p => p.r.toNat / 32 * 2 + (if 128 ≤ p.a.toNat then 1 else 0)
    BitVec.ofNat 8 (nib (s.surfRead (2 * j)) * 16 + nib (s.surfRead (2 * j + 1)))

/-- PLANE_ENCODE IA8 (R117). -/
def Obligations.PlaneEncodeIa8CombinesTheTopNibbles : Prop :=
  planeEncodeMeets .planeEncodeIa8 0x00000511 8 fun s j =>
    BitVec.ofNat 8 ((s.surfRead j).r.toNat / 16 * 16 + (s.surfRead j).a.toNat / 16)

/-- PLANE_ENCODE IA16 (R118). -/
def Obligations.PlaneEncodeIa16WritesRedAndAlpha : Prop :=
  planeEncodeMeets .planeEncodeIa16 0x00000611 16 fun s j =>
    if j % 2 = 0 then (s.surfRead (j / 2)).r else (s.surfRead (j / 2)).a

/-- PLANE_ENCODE CI4 (R119). -/
def Obligations.PlaneEncodeCi4PacksTheIndices : Prop :=
  planeEncodeIndexedMeets .planeEncodeCi4 0x00000711 4 16 fun pal count s j =>
    BitVec.ofNat 8 (colorIndex pal count s (2 * j) * 16 + colorIndex pal count s (2 * j + 1))

/-- PLANE_ENCODE CI8 (R120). -/
def Obligations.PlaneEncodeCi8WritesTheIndices : Prop :=
  planeEncodeIndexedMeets .planeEncodeCi8 0x00000811 8 256 fun pal count s j =>
    BitVec.ofNat 8 (colorIndex pal count s j)

/-! ### Palette manager -/

/-- paletteExtend and paletteIndex (43_palette.md R131, R132): it fails exactly when the count given, or the count with
the image's new colors, exceeds the capacity; otherwise the new colors follow the old entries in first-seen order,
every other entry is as before, and each color of the image has its least index below the count. -/
def Obligations.PaletteExtendAppendsNewColorsInOrder : Prop :=
  ∀ (pal : Palette) (n : Nat) (px : List Pixel) (cap : Nat), (cap = 16 ∨ cap = 256) →
    (cap < n ∨ cap < n + (newColors pal n px).length →
      paletteExtend pal n px cap = .error .paletteOverflow) ∧
    (n + (newColors pal n px).length ≤ cap →
      ∃ pal', paletteExtend pal n px cap = .ok (pal', n + (newColors pal n px).length) ∧
        (∀ i, i < n → palEntry pal' i = palEntry pal i) ∧
        (∀ i, (h : i < (newColors pal n px).length) → palEntry pal' (n + i) = (newColors pal n px)[i]) ∧
        (∀ i, n + (newColors pal n px).length ≤ i → palEntry pal' i = palEntry pal i) ∧
        ∀ p ∈ px, ∃ i, paletteIndex pal' (n + (newColors pal n px).length) (pack5551 p) = i ∧
          i < n + (newColors pal n px).length ∧ palEntry pal' i = pack5551 p ∧
          ∀ j, j < i → palEntry pal' j ≠ pack5551 p)

/-- PAL_BUILD (43_palette.md R140). -/
def Obligations.PalBuildListsTheDistinctColors : Prop :=
  (∀ fmt : FmtCode, decode (0#20 ++ fmt ++ 0x20#8) = .ok (.palBuild fmt)) ∧
  (∀ (fmt : FmtCode) (s : State), fmt.toNat < 7 ∨ 8 < fmt.toNat → failsWith (.palBuild fmt) s 1) ∧
  ∀ (c : CIFormat) (s : State),
    (s.surfCap < s.imgPixels → failsWith (.palBuild c.code) s 7) ∧
    (s.imgPixels ≤ s.surfCap → c.cap < s.distinctColors.length → failsWith (.palBuild c.code) s 3) ∧
    (s.imgPixels ≤ s.surfCap → s.distinctColors.length ≤ c.cap →
      ∃ t, exec (.palBuild c.code) s = .next t ∧
        t = { s with pal := t.pal, palCount := t.palCount, err := 0 } ∧
        t.paletteCount = s.distinctColors.length ∧
        ∀ i, palEntry t.pal i = s.distinctColors.getD i 0)

/-- PAL_READ (43_palette.md R141). -/
def Obligations.PalReadLoadsAndRemovesThePalette : Prop :=
  (∀ fmt : FmtCode, decode (0#20 ++ fmt ++ 0x21#8) = .ok (.palRead fmt)) ∧
  (∀ (fmt : FmtCode) (s : State), fmt.toNat < 7 ∨ 8 < fmt.toNat → failsWith (.palRead fmt) s 1) ∧
  ∀ (c : CIFormat) (s : State),
    (s.rawCap < s.rawLength → failsWith (.palRead c.code) s 7) ∧
    (s.rawLength ≤ s.rawCap → s.rawLength < 2 * c.cap → failsWith (.palRead c.code) s 5) ∧
    (s.rawLength ≤ s.rawCap → 2 * c.cap ≤ s.rawLength →
      let at0 := if s.palAtStart then 0 else s.rawLength - 2 * c.cap
      let rest0 := if s.palAtStart then 2 * c.cap else 0
      ∃ t, exec (.palRead c.code) s = .next t ∧
        t = { s with raw := t.raw, rawLen := t.rawLen, pal := t.pal, palCount := t.palCount, err := 0 } ∧
        (∀ i, palEntry t.pal i =
          if i < c.cap then
            BitVec.ofNat 16 (256 * (s.rawByte (at0 + 2 * i)).toNat + (s.rawByte (at0 + 2 * i + 1)).toNat)
          else 0) ∧
        t.paletteCount = c.cap ∧ t.rawLength = s.rawLength - 2 * c.cap ∧
        (∀ a, a < s.rawLength - 2 * c.cap → t.raw.read a = some (s.rawByte (rest0 + a))) ∧
        ∀ a, s.rawLength - 2 * c.cap ≤ a → t.raw.read a = s.raw.read a)

/-- PAL_WRITE (43_palette.md R142); RAW_LEN is the new length where 32 bits hold it. -/
def Obligations.PalWriteAttachesThePaddedPalette : Prop :=
  (∀ fmt : FmtCode, decode (0#20 ++ fmt ++ 0x22#8) = .ok (.palWrite fmt)) ∧
  (∀ (fmt : FmtCode) (s : State), fmt.toNat < 7 ∨ 8 < fmt.toNat → failsWith (.palWrite fmt) s 1) ∧
  ∀ (c : CIFormat) (s : State),
    (s.rawCap < s.rawLength → failsWith (.palWrite c.code) s 7) ∧
    (s.rawLength ≤ s.rawCap → c.cap < s.paletteCount → failsWith (.palWrite c.code) s 3) ∧
    (s.rawLength ≤ s.rawCap → s.paletteCount ≤ c.cap → s.rawCap < s.rawLength + 2 * c.cap →
      failsWith (.palWrite c.code) s 7) ∧
    (s.paletteCount ≤ c.cap → s.rawLength + 2 * c.cap ≤ s.rawCap →
      let at0 := if s.palAtStart then 0 else s.rawLength
      let rest0 := if s.palAtStart then 2 * c.cap else 0
      let entry := fun i => if i < s.paletteCount then (palEntry s.pal i).toNat else 0
      ∃ t, exec (.palWrite c.code) s = .next t ∧
        t = { s with raw := t.raw, rawLen := t.rawLen, err := 0 } ∧
        (s.rawLength + 2 * c.cap < 2 ^ 32 → t.rawLength = s.rawLength + 2 * c.cap) ∧
        (∀ i, i < c.cap → t.raw.read (at0 + 2 * i) = some (BitVec.ofNat 8 (entry i / 256)) ∧
          t.raw.read (at0 + 2 * i + 1) = some (BitVec.ofNat 8 (entry i % 256))) ∧
        (∀ a, a < s.rawLength → t.raw.read (rest0 + a) = some (s.rawByte a)) ∧
        ∀ a, s.rawLength + 2 * c.cap ≤ a → t.raw.read a = s.raw.read a)

/-- The laws of the palette commands (43_palette.md R143): laws 1 and 3, then law 2, then law 4. Law 2 is stated where
the 32 bits of RAW_LEN hold the new length (log 6). -/
def Obligations.PaletteCommandLaws : Prop :=
  (∀ (c : CIFormat) (s t : State), exec (.palBuild c.code) s = .next t → t.err = 0 →
    (palPrefix t.pal t.paletteCount).Nodup ∧ (∀ i, t.paletteCount ≤ i → palEntry t.pal i = 0) ∧
    ∀ p ∈ s.image,
      unpack5551 (palEntry t.pal (paletteIndex t.pal t.paletteCount (pack5551 p))) = unpack5551 (pack5551 p)) ∧
  (∀ (c : CIFormat) (s t : State), exec (.palWrite c.code) s = .next t → t.err = 0 → s.rawLength + 2 * c.cap < 2 ^ 32 →
    ∃ u, exec (.palRead c.code) t = .next u ∧ u.err = 0 ∧ u.rawLen = s.rawLen ∧
      (∀ a, a < s.rawLength → u.rawByte a = s.rawByte a) ∧
      (∀ i, palEntry u.pal i = if i < s.paletteCount then palEntry s.pal i else 0) ∧ u.paletteCount = c.cap) ∧
  ∀ (c : CIFormat) (s : State), s.distinctColors.length ≤ c.cap →
    ¬ failsWith (.palBuild c.code) s 3 ∧ ¬ failsWith (.encode c.code) s 3

/-! ### Swizzle -/

/-- SWIZZLE (44_swizzle.md R151). -/
def Obligations.SwizzleTransformsRawInPlace : Prop :=
  (∀ fmt : FmtCode, decode (0#20 ++ fmt ++ 0x30#8) = .ok (.swizzle fmt)) ∧
  (∀ (fmt : FmtCode) (s : State), 8 < fmt.toNat → failsWith (.swizzle fmt) s 1) ∧
  ∀ (f : Format) (s : State),
    (s.swzEn = false → exec (.swizzle f.code) s = .next { s with err := 0 }) ∧
    (s.swzEn = true → oddPair f.bpp s → failsWith (.swizzle f.code) s 4) ∧
    (s.swzEn = true → ¬ oddPair f.bpp s → s.rawCap < s.rawLength → failsWith (.swizzle f.code) s 7) ∧
    (s.swzEn = true → ¬ oddPair f.bpp s → s.rawLength ≤ s.rawCap → s.rawLength < planeSize f.bpp s →
      failsWith (.swizzle f.code) s 2) ∧
    (s.swzEn = true → ¬ oddPair f.bpp s → s.rawLength ≤ s.rawCap → planeSize f.bpp s ≤ s.rawLength →
      let out := swizzle (s.rawBytes 0 (planeSize f.bpp s)) s.imgWidth s.imgHeight f.bpp
      ∃ t, exec (.swizzle f.code) s = .next t ∧
        t = { s with raw := t.raw, rawLen := t.rawLen, err := 0 } ∧ t.rawLength = out.length ∧
        (∀ j, (h : j < out.length) → t.raw.read j = some out[j]) ∧
        ∀ a, out.length ≤ a → t.raw.read a = s.raw.read a)

/-- The swizzle's output (44_swizzle.md R150, R153): its length, and where each of its bytes comes from. Row y starts
after the rows above it, each odd one of which lost its partial chunk of `drop` bytes; an even row stays as it is, and
an odd row swaps the halves of its whole chunks. -/
def Obligations.SwizzleOutputLengthAndBytes : Prop :=
  ∀ (B : List Byte) (W H : Nat) (f : Format), H * bytesPerRow f.bpp W ≤ B.length →
    let bpr := bytesPerRow f.bpp W
    let chunk := if f.bpp = 32 then 16 else 8
    let half := if f.bpp = 32 then 8 else 4
    let drop := bpr % chunk
    (swizzle B W H f.bpp).length = H * bpr - H / 2 * drop ∧
    ∀ y x, y < H → x < (if y % 2 = 0 then bpr else bpr - drop) →
      (swizzle B W H f.bpp)[y * bpr - y / 2 * drop + x]? =
        if y % 2 = 0 then B[y * bpr + x]?
        else if x % chunk < half then B[y * bpr + x + half]?
        else B[y * bpr + x - half]?

/-- The involution law and where it fails (44_swizzle.md R152). -/
def Obligations.SwizzleIsAnInvolutionWhenChunkClean : Prop :=
  (∀ (B : List Byte) (W H : Nat) (f : Format), H * bytesPerRow f.bpp W ≤ B.length → chunkClean f.bpp W H = true →
    swizzle (swizzle B W H f.bpp) W H f.bpp = B.take (H * bytesPerRow f.bpp W)) ∧
  ∀ (f : Format) (s t : State), s.swzEn = true → chunkClean f.bpp s.imgWidth s.imgHeight = false →
    exec (.swizzle f.code) s = .next t → t.err = 0 → failsWith (.swizzle f.code) t 2

/-- Chunk-clean geometries by format (44_swizzle.md R154), and that with the swizzle on no other geometry decodes
(70_reset_and_hazards.md R207). -/
def Obligations.OnlyChunkCleanGeometriesDecode : Prop :=
  (∀ (f : Format) (W H : Nat), (f.bpp = 4 → W % 2 = 0) →
    (chunkClean f.bpp W H = true ↔
      H ≤ 1 ∨ (f.bpp = 32 ∧ W % 4 = 0) ∨ (f.bpp = 16 ∧ W % 4 = 0) ∨ (f.bpp = 8 ∧ W % 8 = 0) ∨
        (f.bpp = 4 ∧ W % 16 = 0))) ∧
  ∀ (f : Format) (s : State), s.swzEn = true → ¬ oddPair f.bpp s → ¬ overCapacity s →
    chunkClean f.bpp s.imgWidth s.imgHeight = false →
    failsWith (.decode f.code) s 2 ∨
      (f.ci?.isSome ∧ s.rawLength < 32 ∧ failsWith (.decode f.code) s 5) ∨
      (f = .ci8 ∧ s.rawLength < 512 ∧ failsWith (.decode f.code) s 5)

/-! ### Whole textures -/

/-- NOP (45_convert.md R162). -/
def Obligations.NopOnlyClearsTheErrorCode : Prop :=
  (∀ fmt : FmtCode, decode (0#20 ++ fmt ++ 0x00#8) = .ok (.nop fmt)) ∧
  (∀ (c : Word32) (s : State), opField c = 0x00 → rsvField c ≠ 0 → issue c s = .next { s with err := 6 }) ∧
  ∀ (fmt : FmtCode) (s : State), exec (.nop fmt) s = .next { s with err := 0 }

/-- DECODE of a format without palette, and of a code that is no format (45_convert.md R160). -/
def Obligations.DecodeOfUnindexedFormats : Prop :=
  (∀ fmt : FmtCode, decode (0#20 ++ fmt ++ 0x01#8) = .ok (.decode fmt)) ∧
  (∀ (fmt : FmtCode) (s : State), 8 < fmt.toNat → failsWith (.decode fmt) s 1) ∧
  ∀ (f : Format) (s : State), f.ci? = none →
    let B := swizzleIf s.swzEn (s.rawBytes 0 (planeSize f.bpp s)) s.imgWidth s.imgHeight f.bpp
    (oddPair f.bpp s → failsWith (.decode f.code) s 4) ∧
    (¬ oddPair f.bpp s → overCapacity s → failsWith (.decode f.code) s 7) ∧
    (¬ oddPair f.bpp s → ¬ overCapacity s → s.rawLength < planeSize f.bpp s → failsWith (.decode f.code) s 2) ∧
    (¬ oddPair f.bpp s → ¬ overCapacity s → planeSize f.bpp s ≤ s.rawLength →
      s.swzEn = true ∧ chunkClean f.bpp s.imgWidth s.imgHeight = false → failsWith (.decode f.code) s 2) ∧
    (¬ oddPair f.bpp s → ¬ overCapacity s → planeSize f.bpp s ≤ s.rawLength →
      s.swzEn = false ∨ chunkClean f.bpp s.imgWidth s.imgHeight = true →
      ∃ t, exec (.decode f.code) s = .next t ∧ t = { s with surf := t.surf, err := 0 } ∧
        (∀ k, k < s.imgPixels → t.surf.read k = some (planePixel f B s.pal k)) ∧
        ∀ k, s.imgPixels ≤ k → t.surf.read k = s.surf.read k)

/-- DECODE of an indexed format (45_convert.md R160). -/
def Obligations.DecodeOfIndexedFormats : Prop :=
  ∀ (c : CIFormat) (s : State),
    let f := c.format
    let at0 := if s.palAtStart then 0 else s.rawLength - 2 * c.cap
    let plane0 := if s.palAtStart then 2 * c.cap else 0
    let B := swizzleIf s.swzEn (s.rawBytes plane0 (plane0 + planeSize f.bpp s)) s.imgWidth s.imgHeight f.bpp
    decode (0#20 ++ c.code ++ 0x01#8) = .ok (.decode c.code) ∧
    (oddPair f.bpp s → failsWith (.decode c.code) s 4) ∧
    (¬ oddPair f.bpp s → overCapacity s → failsWith (.decode c.code) s 7) ∧
    (¬ oddPair f.bpp s → ¬ overCapacity s → s.rawLength < 2 * c.cap → failsWith (.decode c.code) s 5) ∧
    (¬ oddPair f.bpp s → ¬ overCapacity s → 2 * c.cap ≤ s.rawLength → s.rawLength < 2 * c.cap + planeSize f.bpp s →
      failsWith (.decode c.code) s 2) ∧
    (¬ oddPair f.bpp s → ¬ overCapacity s → 2 * c.cap + planeSize f.bpp s ≤ s.rawLength →
      s.swzEn = true ∧ chunkClean f.bpp s.imgWidth s.imgHeight = false → failsWith (.decode c.code) s 2) ∧
    (¬ oddPair f.bpp s → ¬ overCapacity s → 2 * c.cap + planeSize f.bpp s ≤ s.rawLength →
      s.swzEn = false ∨ chunkClean f.bpp s.imgWidth s.imgHeight = true →
      ∃ t, exec (.decode c.code) s = .next t ∧
        t = { s with surf := t.surf, pal := t.pal, palCount := t.palCount, err := 0 } ∧
        (∀ i, palEntry t.pal i =
          if i < c.cap then
            BitVec.ofNat 16 (256 * (s.rawByte (at0 + 2 * i)).toNat + (s.rawByte (at0 + 2 * i + 1)).toNat)
          else 0) ∧
        t.paletteCount = c.cap ∧
        (∀ k, k < s.imgPixels → t.surf.read k = some (planePixel f B t.pal k)) ∧
        ∀ k, s.imgPixels ≤ k → t.surf.read k = s.surf.read k)

/-- ENCODE of a format without palette, and of a code that is no format (45_convert.md R161). RAW_LEN is the output's
length where 32 bits hold it. -/
def Obligations.EncodeOfUnindexedFormats : Prop :=
  (∀ fmt : FmtCode, decode (0#20 ++ fmt ++ 0x02#8) = .ok (.encode fmt)) ∧
  (∀ (fmt : FmtCode) (s : State), 8 < fmt.toNat → failsWith (.encode fmt) s 1) ∧
  ∀ (f : Format) (s : State), f.ci? = none →
    let out := swizzleIf s.swzEn (planeEncode f s.image s.pal s.paletteCount) s.imgWidth s.imgHeight f.bpp
    (oddPair f.bpp s → failsWith (.encode f.code) s 4) ∧
    (¬ oddPair f.bpp s → s.surfCap < s.imgPixels → failsWith (.encode f.code) s 7) ∧
    (¬ oddPair f.bpp s → s.imgPixels ≤ s.surfCap → s.rawCap < out.length → failsWith (.encode f.code) s 7) ∧
    (¬ oddPair f.bpp s → s.imgPixels ≤ s.surfCap → out.length ≤ s.rawCap →
      ∃ t, exec (.encode f.code) s = .next t ∧
        t = { s with raw := t.raw, rawLen := t.rawLen, err := 0 } ∧
        (out.length < 2 ^ 32 → t.rawLength = out.length) ∧
        (∀ j, (h : j < out.length) → t.raw.read j = some out[j]) ∧
        ∀ a, out.length ≤ a → t.raw.read a = s.raw.read a)

/-- ENCODE of an indexed format (45_convert.md R161): PAL holds the image's distinct colors in first-seen order, and
the texture is the palette, padded to its capacity, and the swizzled plane of the indices. RAW_LEN is its length where
32 bits hold it. -/
def Obligations.EncodeOfIndexedFormats : Prop :=
  ∀ (c : CIFormat) (s : State),
    let f := c.format
    decode (0#20 ++ c.code ++ 0x02#8) = .ok (.encode c.code) ∧
    (oddPair f.bpp s → failsWith (.encode c.code) s 4) ∧
    (¬ oddPair f.bpp s → s.surfCap < s.imgPixels → failsWith (.encode c.code) s 7) ∧
    (¬ oddPair f.bpp s → s.imgPixels ≤ s.surfCap → c.cap < s.distinctColors.length →
      failsWith (.encode c.code) s 3) ∧
    (¬ oddPair f.bpp s → s.imgPixels ≤ s.surfCap → s.distinctColors.length ≤ c.cap →
      ∃ pal : Palette, (∀ i, palEntry pal i = s.distinctColors.getD i 0) ∧
        let plane := swizzleIf s.swzEn (planeEncode f s.image pal s.distinctColors.length) s.imgWidth s.imgHeight f.bpp
        let pb := paletteBytes pal s.distinctColors.length c.cap
        let out := if s.palAtStart then pb ++ plane else plane ++ pb
        (s.rawCap < out.length → failsWith (.encode c.code) s 7) ∧
        (out.length ≤ s.rawCap →
          ∃ t, exec (.encode c.code) s = .next t ∧
            t = { s with raw := t.raw, rawLen := t.rawLen, pal := pal, palCount := t.palCount, err := 0 } ∧
            (out.length < 2 ^ 32 → t.rawLength = out.length) ∧
            t.paletteCount = s.distinctColors.length ∧
            (∀ j, (h : j < out.length) → t.raw.read j = some out[j]) ∧
            ∀ a, out.length ≤ a → t.raw.read a = s.raw.read a))

/-- The whole-texture commands are the compositions of the component commands (45_convert.md R163), decode side. -/
def Obligations.DecodeIsTheCompositionOfItsParts : Prop :=
  (∀ (f : Format) (s t : State), f.ci? = none → exec (.decode f.code) s = .next t → t.err = 0 →
    ∃ a b, exec (.swizzle f.code) s = .next a ∧ a.err = 0 ∧
      exec (planeDecodeInstr f) a = .next b ∧ b.err = 0 ∧ b.surf = t.surf) ∧
  ∀ (c : CIFormat) (s t : State), exec (.decode c.code) s = .next t → t.err = 0 →
    ∃ z a b, exec (.palRead c.code) s = .next z ∧ z.err = 0 ∧ exec (.swizzle c.code) z = .next a ∧ a.err = 0 ∧
      exec (planeDecodeInstr c.format) a = .next b ∧ b.err = 0 ∧
      b.surf = t.surf ∧ b.pal = t.pal ∧ b.palCount = t.palCount

/-- The same, encode side (R163), where the 32 bits of RAW_LEN hold every length (log 6). -/
def Obligations.EncodeIsTheCompositionOfItsParts : Prop :=
  (∀ (f : Format) (s t a b : State), s.rawCap < 2 ^ 32 → f.ci? = none → exec (.encode f.code) s = .next t → t.err = 0 →
    exec (planeEncodeInstr f) s = .next a → a.err = 0 → exec (.swizzle f.code) a = .next b → b.err = 0 →
    b.rawLen = t.rawLen ∧ (∀ j, j < t.rawLength → b.rawByte j = t.rawByte j) ∧
      b.pal = t.pal ∧ b.palCount = t.palCount) ∧
  ∀ (c : CIFormat) (s t z a b d : State), s.rawCap < 2 ^ 32 → exec (.encode c.code) s = .next t → t.err = 0 →
    exec (.palBuild c.code) s = .next z → z.err = 0 → exec (planeEncodeInstr c.format) z = .next a → a.err = 0 →
    exec (.swizzle c.code) a = .next b → b.err = 0 → exec (.palWrite c.code) b = .next d → d.err = 0 →
    d.rawLen = t.rawLen ∧ (∀ j, j < t.rawLength → d.rawByte j = t.rawByte j) ∧
      d.pal = t.pal ∧ d.palCount = t.palCount

/-- The round-trip laws of the plane codec (42_plane_encode.md R121), with the palette an indexed encode leaves; and
exactly which pixels come back unchanged. -/
def Obligations.PlaneCodecRoundTrip : Prop :=
  (∀ (f : Format) (px : List Pixel) (pal pal' : Palette) (n count : Nat),
    (f.bpp = 4 → px.length % 2 = 0) → encodePalette f pal n px = .ok (pal', count) →
    planeDecode f (planeEncode f px pal' count) px.length pal' = px.map (lossy f)) ∧
  ∀ (f : Format) (p : Pixel), lossy f p = p ↔ lossless f p

/-- The whole-texture round trip (45_convert.md R164), from any state that holds the texture and the configuration an
ENCODE left, where the 32 bits of RAW_LEN hold every length (log 6). -/
def Obligations.WholeTextureRoundTrip : Prop :=
  ∀ (f : Format) (s t u : State), s.rawCap < 2 ^ 32 → exec (.encode f.code) s = .next t → t.err = 0 →
    u.swzEn = t.swzEn → u.palAtStart = t.palAtStart → u.width = t.width → u.height = t.height →
    u.rawCap = t.rawCap → u.surfCap = t.surfCap → u.rawLen = t.rawLen →
    (∀ a, a < t.rawLength → u.rawByte a = t.rawByte a) →
    (s.swzEn = false ∨ chunkClean f.bpp s.imgWidth s.imgHeight = true →
      ∃ v, exec (.decode f.code) u = .next v ∧ v.err = 0 ∧
        ∀ k, k < s.imgPixels → v.surf.read k = some (lossy f (s.surfRead k))) ∧
    (s.swzEn = true ∧ chunkClean f.bpp s.imgWidth s.imgHeight = false → failsWith (.decode f.code) u 2)

/-! ### The whole machine -/

/-- What each command may write (10_state.md R38), and that none writes the configuration, the capacities or the
host's side. -/
def Obligations.CommandsWriteOnlyTheirOwnState : Prop :=
  ∀ (i : Instr) (s t : State), exec i s = .next t →
    (t.swzEn = s.swzEn ∧ t.palAtStart = s.palAtStart ∧ t.width = s.width ∧ t.height = s.height ∧
      t.rawCap = s.rawCap ∧ t.surfCap = s.surfCap ∧ t.pending = s.pending ∧ t.response = s.response) ∧
    (i.op ∉ [.encode, .planeEncode, .palRead, .palWrite, .swizzle] → t.raw = s.raw ∧ t.rawLen = s.rawLen) ∧
    (i.op ∉ [.decode, .planeDecode] → t.surf = s.surf) ∧
    ((i.op ∉ [.palBuild, .palRead] ∧ (i.op ∉ [.decode, .encode, .planeEncode] ∨ i.indexed = false)) →
      t.pal = s.pal ∧ t.palCount = s.palCount) ∧
    (i.op ≠ .pack5551 → t.word = s.word) ∧
    (i.op ≠ .unpack5551 → t.pixel = s.pixel)

/-- The state after reset is legal. -/
def Obligations.ResetStateIsLegal : Prop := State.reset.inv = true

/-- Every step from a legal state gives a legal state and keeps the capacities; only a loss of power has no next
state (model's choice, log 11). -/
def Obligations.EveryStepKeepsTheStateLegal : Prop :=
  ∀ s : State, s.inv = true →
    (∀ t, step s = .next t → t.inv = true ∧ t.rawCap = s.rawCap ∧ t.surfCap = s.surfCap) ∧
    (s.pending.head? ≠ some .losePower → safeStep s)

/-- No command reads a byte of RAW at or beyond RAW_LEN (10_state.md R35): from two states that differ only there, a
command ends with states that differ at most in bytes of RAW at or beyond RAW_LEN. -/
def Obligations.BytesBeyondRawLenAreNeverRead : Prop :=
  ∀ (i : Instr) (s s' t t' : State), sameTexture s s' → exec i s = .next t → exec i s' = .next t' → sameTexture t t'

/-- ENCODE does not consult the PAL and PAL_COUNT held at issue (45_convert.md R161, corner cases). -/
def Obligations.EncodeIgnoresTheStoredPalette : Prop :=
  ∀ (f : Format) (s t : State) (pal : Palette) (count : BitVec 9), exec (.encode f.code) s = .next t →
    exec (.encode f.code) { s with pal := pal, palCount := count } =
      .next (if f.ci?.isSome ∧ t.err = 0 then t else { t with pal := pal, palCount := count })
end

