-- ==== Sys2Proof/Laws/Memory.lean ====
section
/-! SUPPORT. The memories: what a read gives after a write, and that every operation keeps the canonical form and the
capacity (20_memory.md R43). -/

namespace Sys2Proof.Machine

open Sys2Proof

variable {α : Type}

/-! ### Read after write -/

@[simp] theorem Memory.read_nil (a : Nat) : Memory.read ([] : Memory α) a = none := rfl

theorem Memory.read_write (m : Memory α) (a b : Nat) (v : α) :
    (m.write a v).read b = if b = a then some v else m.read b := by
  induction m with
  | nil => simp only [Memory.write, Memory.read]; grind
  | cons p rest ih =>
    obtain ⟨k, w⟩ := p
    simp only [Memory.write]
    split
    · simp only [Memory.read]; grind
    · split
      · simp only [Memory.read]; grind
      · simp only [Memory.read, ih]; grind

/-- Everything writeAll does: the addresses a to a + length - 1 hold the values, every other one is as before. -/
theorem Memory.read_writeAll (m : Memory α) (a : Nat) (vs : List α) (b : Nat) :
    (m.writeAll a vs).read b = if a ≤ b ∧ b < a + vs.length then vs[b - a]? else m.read b := by
  induction vs generalizing m a with
  | nil =>
    have : ¬ (a ≤ b ∧ b < a + ([] : List α).length) := by simp
    rw [if_neg this]; rfl
  | cons v vs ih =>
    simp only [Memory.writeAll, ih, Memory.read_write, List.length_cons]
    by_cases h1 : b = a
    · subst h1
      simp
    · by_cases h2 : a + 1 ≤ b ∧ b < a + 1 + vs.length
      · have h3 : a ≤ b ∧ b < a + (vs.length + 1) := by omega
        have h4 : b - a = (b - (a + 1)) + 1 := by omega
        rw [if_pos h2, if_pos h3, h4, List.getElem?_cons_succ]
      · have h3 : ¬ (a ≤ b ∧ b < a + (vs.length + 1)) := by omega
        rw [if_neg h2, if_neg h3, if_neg h1]

theorem Memory.read_writeAll_zero (m : Memory α) (vs : List α) (b : Nat) :
    (m.writeAll 0 vs).read b = if b < vs.length then vs[b]? else m.read b := by
  simp [Memory.read_writeAll]

/-! ### Canonical form -/

theorem Memory.risesFrom_mono {lo hi : Nat} (m : Memory α) (h : hi ≤ lo) (hm : m.risesFrom lo = true) :
    m.risesFrom hi = true := by
  cases m with
  | nil => rfl
  | cons p rest =>
    simp only [Memory.risesFrom, Bool.and_eq_true, decide_eq_true_eq] at hm ⊢
    exact ⟨by omega, hm.2⟩

theorem Memory.risesFrom_write (m : Memory α) (lo a : Nat) (v : α) (ha : lo ≤ a) (hm : m.risesFrom lo = true) :
    (m.write a v).risesFrom lo = true := by
  induction m generalizing lo with
  | nil => simp [Memory.write, Memory.risesFrom, ha]
  | cons p rest ih =>
    obtain ⟨k, w⟩ := p
    simp only [Memory.risesFrom, Bool.and_eq_true, decide_eq_true_eq] at hm
    simp only [Memory.write]
    split
    · simp only [Memory.risesFrom, Bool.and_eq_true, decide_eq_true_eq]
      exact ⟨ha, by omega, hm.2⟩
    · split
      · rename_i hk
        simp only [Memory.risesFrom, Bool.and_eq_true, decide_eq_true_eq]
        exact ⟨ha, hk ▸ hm.2⟩
      · simp only [Memory.risesFrom, Bool.and_eq_true, decide_eq_true_eq]
        exact ⟨hm.1, ih (k + 1) (by omega) hm.2⟩

theorem Memory.wf_write (m : Memory α) (a : Nat) (v : α) (hm : m.wf = true) : (m.write a v).wf = true :=
  Memory.risesFrom_write m 0 a v (Nat.zero_le a) hm

theorem Memory.wf_writeAll (m : Memory α) (a : Nat) (vs : List α) (hm : m.wf = true) :
    (m.writeAll a vs).wf = true := by
  induction vs generalizing m a with
  | nil => exact hm
  | cons v vs ih => exact ih (m.write a v) (a + 1) (Memory.wf_write m a v hm)

@[simp] theorem Memory.wf_nil : Memory.wf ([] : Memory α) = true := rfl

/-! ### Capacity -/

theorem Memory.below_write (m : Memory α) (hi a : Nat) (v : α) (ha : a < hi) (hm : m.below hi = true) :
    (m.write a v).below hi = true := by
  induction m with
  | nil => simp [Memory.write, Memory.below, ha]
  | cons p rest ih =>
    obtain ⟨k, w⟩ := p
    simp only [Memory.below, Bool.and_eq_true, decide_eq_true_eq] at hm
    simp only [Memory.write]
    split
    · simp [Memory.below, ha, hm]
    · split
      · simp [Memory.below, ha, hm]
      · simp [Memory.below, hm.1, ih hm.2]

theorem Memory.below_writeAll (m : Memory α) (hi a : Nat) (vs : List α) (ha : a + vs.length ≤ hi)
    (hm : m.below hi = true) : (m.writeAll a vs).below hi = true := by
  induction vs generalizing m a with
  | nil => exact hm
  | cons v vs ih =>
    simp only [List.length_cons] at ha
    exact ih (m.write a v) (a + 1) (by omega) (Memory.below_write m hi a v (by omega) hm)

@[simp] theorem Memory.below_nil (hi : Nat) : Memory.below hi ([] : Memory α) = true := rfl

end Sys2Proof.Machine
end

