-- ==== Sys2Proof/Laws/State.lean ====
section
/-! SUPPORT. One lemma per field per update of State, true by rfl, so that no proof unfolds a record update. -/

namespace Sys2Proof.Machine

open Sys2Proof

/-! ### State.raise -/

@[simp] theorem State.raise_swzEn (s : State) (e : ErrorKind) :
    (s.raise e).swzEn = s.swzEn := rfl

@[simp] theorem State.raise_palAtStart (s : State) (e : ErrorKind) :
    (s.raise e).palAtStart = s.palAtStart := rfl

@[simp] theorem State.raise_width (s : State) (e : ErrorKind) :
    (s.raise e).width = s.width := rfl

@[simp] theorem State.raise_height (s : State) (e : ErrorKind) :
    (s.raise e).height = s.height := rfl

@[simp] theorem State.raise_err (s : State) (e : ErrorKind) :
    (s.raise e).err = e.code := rfl

@[simp] theorem State.raise_rawLen (s : State) (e : ErrorKind) :
    (s.raise e).rawLen = s.rawLen := rfl

@[simp] theorem State.raise_palCount (s : State) (e : ErrorKind) :
    (s.raise e).palCount = s.palCount := rfl

@[simp] theorem State.raise_word (s : State) (e : ErrorKind) :
    (s.raise e).word = s.word := rfl

@[simp] theorem State.raise_pixel (s : State) (e : ErrorKind) :
    (s.raise e).pixel = s.pixel := rfl

@[simp] theorem State.raise_raw (s : State) (e : ErrorKind) :
    (s.raise e).raw = s.raw := rfl

@[simp] theorem State.raise_surf (s : State) (e : ErrorKind) :
    (s.raise e).surf = s.surf := rfl

@[simp] theorem State.raise_pal (s : State) (e : ErrorKind) :
    (s.raise e).pal = s.pal := rfl

@[simp] theorem State.raise_rawCap (s : State) (e : ErrorKind) :
    (s.raise e).rawCap = s.rawCap := rfl

@[simp] theorem State.raise_surfCap (s : State) (e : ErrorKind) :
    (s.raise e).surfCap = s.surfCap := rfl

@[simp] theorem State.raise_pending (s : State) (e : ErrorKind) :
    (s.raise e).pending = s.pending := rfl

@[simp] theorem State.raise_response (s : State) (e : ErrorKind) :
    (s.raise e).response = s.response := rfl

/-! ### State.succeed -/

@[simp] theorem State.succeed_swzEn (s : State) :
    (s.succeed).swzEn = s.swzEn := rfl

@[simp] theorem State.succeed_palAtStart (s : State) :
    (s.succeed).palAtStart = s.palAtStart := rfl

@[simp] theorem State.succeed_width (s : State) :
    (s.succeed).width = s.width := rfl

@[simp] theorem State.succeed_height (s : State) :
    (s.succeed).height = s.height := rfl

@[simp] theorem State.succeed_err (s : State) :
    (s.succeed).err = completedCode := rfl

@[simp] theorem State.succeed_rawLen (s : State) :
    (s.succeed).rawLen = s.rawLen := rfl

@[simp] theorem State.succeed_palCount (s : State) :
    (s.succeed).palCount = s.palCount := rfl

@[simp] theorem State.succeed_word (s : State) :
    (s.succeed).word = s.word := rfl

@[simp] theorem State.succeed_pixel (s : State) :
    (s.succeed).pixel = s.pixel := rfl

@[simp] theorem State.succeed_raw (s : State) :
    (s.succeed).raw = s.raw := rfl

@[simp] theorem State.succeed_surf (s : State) :
    (s.succeed).surf = s.surf := rfl

@[simp] theorem State.succeed_pal (s : State) :
    (s.succeed).pal = s.pal := rfl

@[simp] theorem State.succeed_rawCap (s : State) :
    (s.succeed).rawCap = s.rawCap := rfl

@[simp] theorem State.succeed_surfCap (s : State) :
    (s.succeed).surfCap = s.surfCap := rfl

@[simp] theorem State.succeed_pending (s : State) :
    (s.succeed).pending = s.pending := rfl

@[simp] theorem State.succeed_response (s : State) :
    (s.succeed).response = s.response := rfl

/-! ### State.writeRaw -/

@[simp] theorem State.writeRaw_swzEn (s : State) (B : List Byte) :
    (s.writeRaw B).swzEn = s.swzEn := rfl

@[simp] theorem State.writeRaw_palAtStart (s : State) (B : List Byte) :
    (s.writeRaw B).palAtStart = s.palAtStart := rfl

@[simp] theorem State.writeRaw_width (s : State) (B : List Byte) :
    (s.writeRaw B).width = s.width := rfl

@[simp] theorem State.writeRaw_height (s : State) (B : List Byte) :
    (s.writeRaw B).height = s.height := rfl

@[simp] theorem State.writeRaw_err (s : State) (B : List Byte) :
    (s.writeRaw B).err = s.err := rfl

@[simp] theorem State.writeRaw_rawLen (s : State) (B : List Byte) :
    (s.writeRaw B).rawLen = s.rawLen := rfl

@[simp] theorem State.writeRaw_palCount (s : State) (B : List Byte) :
    (s.writeRaw B).palCount = s.palCount := rfl

@[simp] theorem State.writeRaw_word (s : State) (B : List Byte) :
    (s.writeRaw B).word = s.word := rfl

@[simp] theorem State.writeRaw_pixel (s : State) (B : List Byte) :
    (s.writeRaw B).pixel = s.pixel := rfl

@[simp] theorem State.writeRaw_raw (s : State) (B : List Byte) :
    (s.writeRaw B).raw = s.raw.writeAll 0 B := rfl

@[simp] theorem State.writeRaw_surf (s : State) (B : List Byte) :
    (s.writeRaw B).surf = s.surf := rfl

@[simp] theorem State.writeRaw_pal (s : State) (B : List Byte) :
    (s.writeRaw B).pal = s.pal := rfl

@[simp] theorem State.writeRaw_rawCap (s : State) (B : List Byte) :
    (s.writeRaw B).rawCap = s.rawCap := rfl

@[simp] theorem State.writeRaw_surfCap (s : State) (B : List Byte) :
    (s.writeRaw B).surfCap = s.surfCap := rfl

@[simp] theorem State.writeRaw_pending (s : State) (B : List Byte) :
    (s.writeRaw B).pending = s.pending := rfl

@[simp] theorem State.writeRaw_response (s : State) (B : List Byte) :
    (s.writeRaw B).response = s.response := rfl

/-! ### State.setRawLen -/

@[simp] theorem State.setRawLen_swzEn (s : State) (n : Nat) :
    (s.setRawLen n).swzEn = s.swzEn := rfl

@[simp] theorem State.setRawLen_palAtStart (s : State) (n : Nat) :
    (s.setRawLen n).palAtStart = s.palAtStart := rfl

@[simp] theorem State.setRawLen_width (s : State) (n : Nat) :
    (s.setRawLen n).width = s.width := rfl

@[simp] theorem State.setRawLen_height (s : State) (n : Nat) :
    (s.setRawLen n).height = s.height := rfl

@[simp] theorem State.setRawLen_err (s : State) (n : Nat) :
    (s.setRawLen n).err = s.err := rfl

@[simp] theorem State.setRawLen_rawLen (s : State) (n : Nat) :
    (s.setRawLen n).rawLen = BitVec.ofNat 32 n := rfl

@[simp] theorem State.setRawLen_palCount (s : State) (n : Nat) :
    (s.setRawLen n).palCount = s.palCount := rfl

@[simp] theorem State.setRawLen_word (s : State) (n : Nat) :
    (s.setRawLen n).word = s.word := rfl

@[simp] theorem State.setRawLen_pixel (s : State) (n : Nat) :
    (s.setRawLen n).pixel = s.pixel := rfl

@[simp] theorem State.setRawLen_raw (s : State) (n : Nat) :
    (s.setRawLen n).raw = s.raw := rfl

@[simp] theorem State.setRawLen_surf (s : State) (n : Nat) :
    (s.setRawLen n).surf = s.surf := rfl

@[simp] theorem State.setRawLen_pal (s : State) (n : Nat) :
    (s.setRawLen n).pal = s.pal := rfl

@[simp] theorem State.setRawLen_rawCap (s : State) (n : Nat) :
    (s.setRawLen n).rawCap = s.rawCap := rfl

@[simp] theorem State.setRawLen_surfCap (s : State) (n : Nat) :
    (s.setRawLen n).surfCap = s.surfCap := rfl

@[simp] theorem State.setRawLen_pending (s : State) (n : Nat) :
    (s.setRawLen n).pending = s.pending := rfl

@[simp] theorem State.setRawLen_response (s : State) (n : Nat) :
    (s.setRawLen n).response = s.response := rfl

/-! ### State.writeSurf -/

@[simp] theorem State.writeSurf_swzEn (s : State) (px : List Pixel) :
    (s.writeSurf px).swzEn = s.swzEn := rfl

@[simp] theorem State.writeSurf_palAtStart (s : State) (px : List Pixel) :
    (s.writeSurf px).palAtStart = s.palAtStart := rfl

@[simp] theorem State.writeSurf_width (s : State) (px : List Pixel) :
    (s.writeSurf px).width = s.width := rfl

@[simp] theorem State.writeSurf_height (s : State) (px : List Pixel) :
    (s.writeSurf px).height = s.height := rfl

@[simp] theorem State.writeSurf_err (s : State) (px : List Pixel) :
    (s.writeSurf px).err = s.err := rfl

@[simp] theorem State.writeSurf_rawLen (s : State) (px : List Pixel) :
    (s.writeSurf px).rawLen = s.rawLen := rfl

@[simp] theorem State.writeSurf_palCount (s : State) (px : List Pixel) :
    (s.writeSurf px).palCount = s.palCount := rfl

@[simp] theorem State.writeSurf_word (s : State) (px : List Pixel) :
    (s.writeSurf px).word = s.word := rfl

@[simp] theorem State.writeSurf_pixel (s : State) (px : List Pixel) :
    (s.writeSurf px).pixel = s.pixel := rfl

@[simp] theorem State.writeSurf_raw (s : State) (px : List Pixel) :
    (s.writeSurf px).raw = s.raw := rfl

@[simp] theorem State.writeSurf_surf (s : State) (px : List Pixel) :
    (s.writeSurf px).surf = s.surf.writeAll 0 px := rfl

@[simp] theorem State.writeSurf_pal (s : State) (px : List Pixel) :
    (s.writeSurf px).pal = s.pal := rfl

@[simp] theorem State.writeSurf_rawCap (s : State) (px : List Pixel) :
    (s.writeSurf px).rawCap = s.rawCap := rfl

@[simp] theorem State.writeSurf_surfCap (s : State) (px : List Pixel) :
    (s.writeSurf px).surfCap = s.surfCap := rfl

@[simp] theorem State.writeSurf_pending (s : State) (px : List Pixel) :
    (s.writeSurf px).pending = s.pending := rfl

@[simp] theorem State.writeSurf_response (s : State) (px : List Pixel) :
    (s.writeSurf px).response = s.response := rfl

/-! ### State.storePalette -/

@[simp] theorem State.storePalette_swzEn (s : State) (pal : Palette) (count : Nat) :
    (s.storePalette pal count).swzEn = s.swzEn := rfl

@[simp] theorem State.storePalette_palAtStart (s : State) (pal : Palette) (count : Nat) :
    (s.storePalette pal count).palAtStart = s.palAtStart := rfl

@[simp] theorem State.storePalette_width (s : State) (pal : Palette) (count : Nat) :
    (s.storePalette pal count).width = s.width := rfl

@[simp] theorem State.storePalette_height (s : State) (pal : Palette) (count : Nat) :
    (s.storePalette pal count).height = s.height := rfl

@[simp] theorem State.storePalette_err (s : State) (pal : Palette) (count : Nat) :
    (s.storePalette pal count).err = s.err := rfl

@[simp] theorem State.storePalette_rawLen (s : State) (pal : Palette) (count : Nat) :
    (s.storePalette pal count).rawLen = s.rawLen := rfl

@[simp] theorem State.storePalette_palCount (s : State) (pal : Palette) (count : Nat) :
    (s.storePalette pal count).palCount = BitVec.ofNat 9 count := rfl

@[simp] theorem State.storePalette_word (s : State) (pal : Palette) (count : Nat) :
    (s.storePalette pal count).word = s.word := rfl

@[simp] theorem State.storePalette_pixel (s : State) (pal : Palette) (count : Nat) :
    (s.storePalette pal count).pixel = s.pixel := rfl

@[simp] theorem State.storePalette_raw (s : State) (pal : Palette) (count : Nat) :
    (s.storePalette pal count).raw = s.raw := rfl

@[simp] theorem State.storePalette_surf (s : State) (pal : Palette) (count : Nat) :
    (s.storePalette pal count).surf = s.surf := rfl

@[simp] theorem State.storePalette_pal (s : State) (pal : Palette) (count : Nat) :
    (s.storePalette pal count).pal = pal := rfl

@[simp] theorem State.storePalette_rawCap (s : State) (pal : Palette) (count : Nat) :
    (s.storePalette pal count).rawCap = s.rawCap := rfl

@[simp] theorem State.storePalette_surfCap (s : State) (pal : Palette) (count : Nat) :
    (s.storePalette pal count).surfCap = s.surfCap := rfl

@[simp] theorem State.storePalette_pending (s : State) (pal : Palette) (count : Nat) :
    (s.storePalette pal count).pending = s.pending := rfl

@[simp] theorem State.storePalette_response (s : State) (pal : Palette) (count : Nat) :
    (s.storePalette pal count).response = s.response := rfl

/-! ### State.setPending -/

@[simp] theorem State.setPending_swzEn (s : State) (rest : List HostEvent) :
    (s.setPending rest).swzEn = s.swzEn := rfl

@[simp] theorem State.setPending_palAtStart (s : State) (rest : List HostEvent) :
    (s.setPending rest).palAtStart = s.palAtStart := rfl

@[simp] theorem State.setPending_width (s : State) (rest : List HostEvent) :
    (s.setPending rest).width = s.width := rfl

@[simp] theorem State.setPending_height (s : State) (rest : List HostEvent) :
    (s.setPending rest).height = s.height := rfl

@[simp] theorem State.setPending_err (s : State) (rest : List HostEvent) :
    (s.setPending rest).err = s.err := rfl

@[simp] theorem State.setPending_rawLen (s : State) (rest : List HostEvent) :
    (s.setPending rest).rawLen = s.rawLen := rfl

@[simp] theorem State.setPending_palCount (s : State) (rest : List HostEvent) :
    (s.setPending rest).palCount = s.palCount := rfl

@[simp] theorem State.setPending_word (s : State) (rest : List HostEvent) :
    (s.setPending rest).word = s.word := rfl

@[simp] theorem State.setPending_pixel (s : State) (rest : List HostEvent) :
    (s.setPending rest).pixel = s.pixel := rfl

@[simp] theorem State.setPending_raw (s : State) (rest : List HostEvent) :
    (s.setPending rest).raw = s.raw := rfl

@[simp] theorem State.setPending_surf (s : State) (rest : List HostEvent) :
    (s.setPending rest).surf = s.surf := rfl

@[simp] theorem State.setPending_pal (s : State) (rest : List HostEvent) :
    (s.setPending rest).pal = s.pal := rfl

@[simp] theorem State.setPending_rawCap (s : State) (rest : List HostEvent) :
    (s.setPending rest).rawCap = s.rawCap := rfl

@[simp] theorem State.setPending_surfCap (s : State) (rest : List HostEvent) :
    (s.setPending rest).surfCap = s.surfCap := rfl

@[simp] theorem State.setPending_pending (s : State) (rest : List HostEvent) :
    (s.setPending rest).pending = rest := rfl

@[simp] theorem State.setPending_response (s : State) (rest : List HostEvent) :
    (s.setPending rest).response = s.response := rfl

/-! ### State.respond -/

@[simp] theorem State.respond_swzEn (s : State) (d : HostData) :
    (s.respond d).swzEn = s.swzEn := rfl

@[simp] theorem State.respond_palAtStart (s : State) (d : HostData) :
    (s.respond d).palAtStart = s.palAtStart := rfl

@[simp] theorem State.respond_width (s : State) (d : HostData) :
    (s.respond d).width = s.width := rfl

@[simp] theorem State.respond_height (s : State) (d : HostData) :
    (s.respond d).height = s.height := rfl

@[simp] theorem State.respond_err (s : State) (d : HostData) :
    (s.respond d).err = s.err := rfl

@[simp] theorem State.respond_rawLen (s : State) (d : HostData) :
    (s.respond d).rawLen = s.rawLen := rfl

@[simp] theorem State.respond_palCount (s : State) (d : HostData) :
    (s.respond d).palCount = s.palCount := rfl

@[simp] theorem State.respond_word (s : State) (d : HostData) :
    (s.respond d).word = s.word := rfl

@[simp] theorem State.respond_pixel (s : State) (d : HostData) :
    (s.respond d).pixel = s.pixel := rfl

@[simp] theorem State.respond_raw (s : State) (d : HostData) :
    (s.respond d).raw = s.raw := rfl

@[simp] theorem State.respond_surf (s : State) (d : HostData) :
    (s.respond d).surf = s.surf := rfl

@[simp] theorem State.respond_pal (s : State) (d : HostData) :
    (s.respond d).pal = s.pal := rfl

@[simp] theorem State.respond_rawCap (s : State) (d : HostData) :
    (s.respond d).rawCap = s.rawCap := rfl

@[simp] theorem State.respond_surfCap (s : State) (d : HostData) :
    (s.respond d).surfCap = s.surfCap := rfl

@[simp] theorem State.respond_pending (s : State) (d : HostData) :
    (s.respond d).pending = s.pending := rfl

@[simp] theorem State.respond_response (s : State) (d : HostData) :
    (s.respond d).response = some d := rfl

/-! ### State.assertReset -/

@[simp] theorem State.assertReset_swzEn (s : State) :
    (s.assertReset).swzEn = State.reset.swzEn := rfl

@[simp] theorem State.assertReset_palAtStart (s : State) :
    (s.assertReset).palAtStart = State.reset.palAtStart := rfl

@[simp] theorem State.assertReset_width (s : State) :
    (s.assertReset).width = State.reset.width := rfl

@[simp] theorem State.assertReset_height (s : State) :
    (s.assertReset).height = State.reset.height := rfl

@[simp] theorem State.assertReset_err (s : State) :
    (s.assertReset).err = State.reset.err := rfl

@[simp] theorem State.assertReset_rawLen (s : State) :
    (s.assertReset).rawLen = State.reset.rawLen := rfl

@[simp] theorem State.assertReset_palCount (s : State) :
    (s.assertReset).palCount = State.reset.palCount := rfl

@[simp] theorem State.assertReset_word (s : State) :
    (s.assertReset).word = State.reset.word := rfl

@[simp] theorem State.assertReset_pixel (s : State) :
    (s.assertReset).pixel = State.reset.pixel := rfl

@[simp] theorem State.assertReset_raw (s : State) :
    (s.assertReset).raw = s.raw := rfl

@[simp] theorem State.assertReset_surf (s : State) :
    (s.assertReset).surf = s.surf := rfl

@[simp] theorem State.assertReset_pal (s : State) :
    (s.assertReset).pal = State.reset.pal := rfl

@[simp] theorem State.assertReset_rawCap (s : State) :
    (s.assertReset).rawCap = s.rawCap := rfl

@[simp] theorem State.assertReset_surfCap (s : State) :
    (s.assertReset).surfCap = s.surfCap := rfl

@[simp] theorem State.assertReset_pending (s : State) :
    (s.assertReset).pending = s.pending := rfl

@[simp] theorem State.assertReset_response (s : State) :
    (s.assertReset).response = s.response := rfl

end Sys2Proof.Machine
end

