-- ==== Sys2Proof/Laws/Ops.lean ====
section
/-! SUPPORT. What the shared operations give: byte sequences, RAW, SURF, PAL, and the end of a command. -/

namespace Sys2Proof.Machine

open Sys2Proof

/-! ### Byte sequences -/

theorem byteAt_eq_of_getElem? {B : List Byte} {i : Nat} {v : Byte} (h : B[i]? = some v) : byteAt B i = v := by
  simp [byteAt, h]

@[simp] theorem slice_length (B : List Byte) (a b : Nat) : (slice B a b).length = min (b - a) (B.length - a) := by
  simp [slice]

theorem slice_getElem? (B : List Byte) (a b i : Nat) :
    (slice B a b)[i]? = if i < b - a then B[a + i]? else none := by
  simp only [slice, List.getElem?_take, List.getElem?_drop]

theorem slice_all (B : List Byte) : slice B 0 B.length = B := by simp [slice]

@[simp] theorem bytesOfWord_length (w : Word16) : (bytesOfWord w).length = 2 := rfl

theorem wordOfBytes_bytesOfWord (w : Word16) : wordOfBytes (w.extractLsb' 8 8) (w.extractLsb' 0 8) = w := by
  simp only [wordOfBytes]
  apply BitVec.eq_of_getLsbD_eq
  intro i hi
  simp only [BitVec.getLsbD_append, BitVec.getLsbD_extractLsb']
  by_cases h : i < 8
  · simp [h]
  · have h1 : i - 8 < 8 := by omega
    have h2 : 8 + (i - 8) = i := by omega
    simp [h, h1, h2]

/-- Concatenating chunks of equal length: where an element of the whole stands in its chunk. -/
theorem getElem?_flatMap_of_length {α β : Type} (f : α → List β) (n : Nat) (hn : ∀ x, (f x).length = n)
    (xs : List α) (j : Nat) :
    (xs.flatMap f)[j]? = (xs[j / n]?).bind fun x => (f x)[j % n]? := by
  induction xs generalizing j with
  | nil => simp
  | cons x xs ih =>
    rw [List.flatMap_cons, List.getElem?_append]
    by_cases h : j < (f x).length
    · rw [if_pos h]
      rw [hn] at h
      simp [Nat.div_eq_of_lt h, Nat.mod_eq_of_lt h]
    · rw [if_neg h, ih, hn]
      rw [hn] at h
      by_cases hn0 : n = 0
      · subst hn0
        have hx : ∀ y, f y = [] := fun y => List.eq_nil_of_length_eq_zero (hn y)
        simp [hx, Option.bind]
        cases xs[0]? <;> rfl
      · have h1 : j / n = (j - n) / n + 1 := by
          rw [Nat.div_eq j n, if_pos ⟨by omega, by omega⟩]
        have h2 : j % n = (j - n) % n := Nat.mod_eq_sub_mod (by omega)
        rw [h1, h2, List.getElem?_cons_succ]

theorem length_flatMap_of_length {α β : Type} (f : α → List β) (n : Nat) (hn : ∀ x, (f x).length = n)
    (xs : List α) : (xs.flatMap f).length = xs.length * n := by
  induction xs with
  | nil => simp
  | cons x xs ih => rw [List.flatMap_cons, List.length_append, ih, hn, List.length_cons, Nat.succ_mul]; omega

/-! ### RAW -/

theorem State.rawByte_of_read {s : State} {a : Nat} {v : Byte} (h : s.raw.read a = some v) : s.rawByte a = v := by
  simp [State.rawByte, h]

theorem State.rawByte_congr {s t : State} {a : Nat} (h : t.raw.read a = s.raw.read a) :
    t.rawByte a = s.rawByte a := by
  simp [State.rawByte, h]

@[simp] theorem State.rawBytes_length (s : State) (a b : Nat) : (s.rawBytes a b).length = b - a := by
  simp [State.rawBytes]

theorem State.rawBytes_getElem? (s : State) (a b i : Nat) :
    (s.rawBytes a b)[i]? = if i < b - a then some (s.rawByte (a + i)) else none := by
  simp only [State.rawBytes, List.getElem?_map]
  split
  · rename_i h; simp [List.getElem?_range h]
  · rename_i h
    rw [List.getElem?_eq_none (by simpa using Nat.le_of_not_lt h)]
    rfl

theorem State.byteAt_rawBytes (s : State) (a b i : Nat) (h : i < b - a) :
    byteAt (s.rawBytes a b) i = s.rawByte (a + i) :=
  byteAt_eq_of_getElem? (by rw [State.rawBytes_getElem?, if_pos h])

/-- Byte sequences of two states are equal where their bytes are. -/
theorem State.rawBytes_congr {s t : State} {a b c d : Nat} (hl : d - c = b - a)
    (h : ∀ i, i < b - a → t.rawByte (c + i) = s.rawByte (a + i)) : t.rawBytes c d = s.rawBytes a b := by
  simp only [State.rawBytes, hl]
  exact List.map_congr_left fun i hi => h i (List.mem_range.mp hi)

theorem State.slice_rawBytes (s : State) (n a b : Nat) (h : b ≤ n) :
    slice (s.rawBytes 0 n) a b = s.rawBytes a b := by
  apply List.ext_getElem?
  intro i
  rw [slice_getElem?, State.rawBytes_getElem?, State.rawBytes_getElem?]
  by_cases hi : i < b - a
  · have h1 : a + i < n - 0 := by omega
    rw [if_pos hi, if_pos hi, if_pos h1]
    simp
  · rw [if_neg hi, if_neg hi]

theorem State.rawByte_writeRaw (s : State) (B : List Byte) (a : Nat) :
    (s.writeRaw B).rawByte a = if a < B.length then byteAt B a else s.rawByte a := by
  simp only [State.rawByte, State.writeRaw_raw, Memory.read_writeAll_zero]
  split
  · rename_i h; simp [byteAt, List.getElem?_eq_getElem h]
  · rfl

/-! ### SURF -/

theorem State.surfRead_congr {s t : State} (h : t.surf = s.surf) : t.surfRead = s.surfRead := by
  funext k; simp [State.surfRead, h]

@[simp] theorem State.surfPixels_length (s : State) (n : Nat) : (s.surfPixels n).length = n := by
  simp [State.surfPixels]

theorem State.surfPixels_getElem? (s : State) (n k : Nat) :
    (s.surfPixels n)[k]? = if k < n then some (s.surfRead k) else none := by
  simp only [State.surfPixels, List.getElem?_map]
  split
  · rename_i h; simp [List.getElem?_range h]
  · rename_i h
    rw [List.getElem?_eq_none (by simpa using Nat.le_of_not_lt h)]
    rfl

theorem State.surfPixels_congr {s t : State} (h : t.surf = s.surf) (n : Nat) :
    t.surfPixels n = s.surfPixels n := by
  simp only [State.surfPixels, State.surfRead_congr h]

/-! ### PAL -/

theorem palEntry_of_le {pal : Palette} {i : Nat} (h : 256 ≤ i) : palEntry pal i = 0 := by
  simp [palEntry, h]

theorem palEntry_eq_getElem {pal : Palette} {i : Nat} (h : i < 256) : palEntry pal i = pal[i] := by
  simp [palEntry, h]

theorem palEntry_setIfInBounds (pal : Palette) (i j : Nat) (v : Word16) (hi : i < 256) :
    palEntry (pal.setIfInBounds i v) j = if j = i then v else palEntry pal j := by
  by_cases hj : j < 256
  · rw [palEntry_eq_getElem hj, Vector.getElem_setIfInBounds hj, palEntry_eq_getElem hj]
    grind
  · have : j ≠ i := by omega
    rw [palEntry_of_le (by omega), palEntry_of_le (by omega), if_neg this]

theorem palEntry_tabulate (f : Nat → Word16) (i : Nat) :
    palEntry (palTabulate f) i = if i < 256 then f i else 0 := by
  by_cases h : i < 256
  · rw [palEntry_eq_getElem h, if_pos h]
    simp [palTabulate]
  · rw [palEntry_of_le (by omega), if_neg h]

@[simp] theorem palEntry_zero (i : Nat) : palEntry palZero i = 0 := by
  by_cases h : i < 256
  · rw [palEntry_eq_getElem h]; simp [palZero]
  · exact palEntry_of_le (by omega)

/-- Two palettes with equal entries are equal. -/
theorem palette_ext {p q : Palette} (h : ∀ i, i < 256 → palEntry p i = palEntry q i) : p = q := by
  apply Vector.ext
  intro i hi
  rw [← palEntry_eq_getElem hi, ← palEntry_eq_getElem hi]
  exact h i hi

theorem palPrefix_length (pal : Palette) (n : Nat) (h : n ≤ 256) : (palPrefix pal n).length = n := by
  simp [palPrefix, h]

theorem palPrefix_getElem? (pal : Palette) (n i : Nat) (hn : n ≤ 256) :
    (palPrefix pal n)[i]? = if i < n then some (palEntry pal i) else none := by
  simp only [palPrefix, List.getElem?_take]
  split
  · rename_i h
    have hi : i < 256 := by omega
    rw [palEntry_eq_getElem hi, List.getElem?_eq_getElem (by simp [hi])]
    simp
  · rfl

theorem mem_palPrefix (pal : Palette) (n : Nat) (c : Word16) (hn : n ≤ 256) :
    c ∈ palPrefix pal n ↔ ∃ i, i < n ∧ palEntry pal i = c := by
  rw [List.mem_iff_getElem?]
  constructor
  · rintro ⟨i, hi⟩
    rw [palPrefix_getElem? pal n i hn] at hi
    split at hi
    · exact ⟨i, ‹_›, by simpa using hi⟩
    · cases hi
  · rintro ⟨i, hi, rfl⟩
    exact ⟨i, by rw [palPrefix_getElem? pal n i hn, if_pos hi]⟩

@[simp] theorem palPrefix_zero (pal : Palette) : palPrefix pal 0 = [] := by simp [palPrefix]

theorem palPrefix_succ_set (pal : Palette) (n : Nat) (c : Word16) (hn : n < 256) :
    palPrefix (pal.setIfInBounds n c) (n + 1) = palPrefix pal n ++ [c] := by
  apply List.ext_getElem?
  intro i
  rw [palPrefix_getElem? _ _ _ (by omega), List.getElem?_append, palPrefix_length pal n (by omega),
    palEntry_setIfInBounds pal n i c hn]
  by_cases h : i < n
  · have h1 : i < n + 1 := by omega
    have h2 : i ≠ n := by omega
    rw [if_pos h1, if_pos h, if_neg h2, palPrefix_getElem? pal n i (by omega), if_pos h]
  · rw [if_neg h]
    by_cases h2 : i = n
    · subst h2; simp
    · have h1 : ¬ i < n + 1 := by omega
      rw [if_neg h1, List.getElem?_eq_none (by simp; omega)]

/-! ### The end of a command -/

theorem commit_error (s : State) (e : ErrorKind) : commit s (.error e) = .next (s.raise e) := rfl

theorem commit_ok (s t : State) : commit s (.ok t) = .next t.succeed := rfl

/-- Everything a commit can do: it always has a next state, the error alone or the collected writes. -/
theorem commit_next {s t : State} {r : Except ErrorKind State} (h : commit s r = .next t) :
    (∃ e, r = .error e ∧ t = s.raise e) ∨ ∃ u, r = .ok u ∧ t = u.succeed := by
  cases r with
  | error e => exact .inl ⟨e, rfl, by simpa [commit] using h.symm⟩
  | ok u => exact .inr ⟨u, rfl, by simpa [commit] using h.symm⟩

theorem ErrorKind.code_ne_zero (e : ErrorKind) : e.code ≠ 0 := by cases e <;> decide

theorem ErrorKind.code_le (e : ErrorKind) : e.code.toNat ≤ 7 := by cases e <;> decide

theorem ErrorKind.code_injective {e e' : ErrorKind} (h : e.code = e'.code) : e = e' := by
  cases e <;> cases e' <;> first | rfl | exact absurd h (by decide)

/-- A command that leaves 0 in STATUS.ERR reached no `raise`. -/
theorem commit_success {s t : State} {r : Except ErrorKind State} (h : commit s r = .next t) (he : t.err = 0) :
    ∃ u, r = .ok u ∧ t = u.succeed := by
  rcases commit_next h with ⟨e, -, rfl⟩ | h
  · exact absurd he (ErrorKind.code_ne_zero e)
  · exact h

theorem Outcome.next_inj {s t : State} (h : (Host.Outcome.next s : Host.Outcome State Fault Refusal) = .next t) :
    s = t := by
  simpa using h

end Sys2Proof.Machine
end

