-- ==== Sys2Proof/Laws/Codec.lean ====
section
/-! SUPPORT. The plane codec: how long a plane is, and where each pixel's bytes stand (41_plane_decode.md R90,
42_plane_encode.md R110). -/

namespace Sys2Proof.Machine

open Sys2Proof

/-! ### Geometry -/

theorem Format.bpp_cases (f : Format) : f.bpp = 32 ∨ f.bpp = 16 ∨ f.bpp = 8 ∨ f.bpp = 4 := by
  cases f <;> simp [Format.bpp]

theorem Format.cap_cases (c : CIFormat) : c.cap = 16 ∨ c.cap = 256 := by cases c <;> simp [CIFormat.cap]

theorem CIFormat.paletteSize_eq (c : CIFormat) : c.paletteSize = 2 * c.cap := rfl

theorem oddWidth_eq_true (f : Format) (W : Nat) : oddWidth f W = true ↔ f.bpp = 4 ∧ W % 2 = 1 := by
  simp [oddWidth]

/-- planeBytes is W*H*bpp/8 wherever the width is accepted (20_memory.md R44). -/
theorem planeBytes_eq (f : Format) (W H : Nat) (h : ¬ (f.bpp = 4 ∧ W % 2 = 1)) :
    planeBytes f W H = W * H * f.bpp / 8 := by
  simp only [planeBytes, bytesPerRow]
  rcases Format.bpp_cases f with hb | hb | hb | hb <;> rw [hb] <;> rw [hb] at h
  · have h1 : W * 32 / 8 = W * 4 := by omega
    have h2 : W * H * 32 / 8 = W * H * 4 := by omega
    rw [h1, h2]; ring
  · have h1 : W * 16 / 8 = W * 2 := by omega
    have h2 : W * H * 16 / 8 = W * H * 2 := by omega
    rw [h1, h2]; ring
  · have h1 : W * 8 / 8 = W := by omega
    have h2 : W * H * 8 / 8 = W * H := by omega
    rw [h1, h2]; ring
  · obtain ⟨k, rfl⟩ : ∃ k, W = 2 * k := ⟨W / 2, by omega⟩
    have h1 : 2 * k * 4 / 8 = k := by omega
    have h3 : 2 * k * H * 4 = (H * k) * 8 := by ring
    rw [h1, h3, Nat.mul_div_cancel _ (by decide)]

/-! ### Decode -/

@[simp] theorem planeDecode_length (f : Format) (B : List Byte) (n : Nat) (pal : Palette) :
    (planeDecode f B n pal).length = n := by
  simp [planeDecode]

theorem planeDecode_getElem? (f : Format) (B : List Byte) (n : Nat) (pal : Palette) (k : Nat) :
    (planeDecode f B n pal)[k]? = if k < n then some (planePixel f B pal k) else none := by
  simp only [planeDecode, List.getElem?_map]
  split
  · rename_i h; simp [List.getElem?_range h]
  · rename_i h
    rw [List.getElem?_eq_none (by simpa using Nat.le_of_not_lt h)]
    rfl

/-! ### Encode -/

theorem packNibbles_length : ∀ ns : List (BitVec 4), (packNibbles ns).length = ns.length / 2
  | [] => rfl
  | [_] => by simp [packNibbles]
  | a :: b :: rest => by
    have ih := packNibbles_length rest
    simp only [packNibbles, List.length_cons, ih]
    omega

theorem packNibbles_getElem? : ∀ (ns : List (BitVec 4)) (j : Nat),
    (packNibbles ns)[j]? = (ns[2 * j]?).bind fun hi => (ns[2 * j + 1]?).map fun lo => (hi ++ lo : Byte)
  | [], j => by simp [packNibbles]
  | [a], j => by
    cases j with
    | zero => simp [packNibbles]
    | succ j =>
      have h : 2 * (j + 1) = (2 * j + 1) + 1 := by omega
      simp [packNibbles, h]
  | a :: b :: rest, j => by
    cases j with
    | zero => simp [packNibbles]
    | succ j =>
      have h : 2 * (j + 1) = (2 * j) + 1 + 1 := by omega
      rw [packNibbles, List.getElem?_cons_succ, packNibbles_getElem? rest j, h]
      simp only [List.getElem?_cons_succ]

theorem planeEncode_length (f : Format) (px : List Pixel) (pal : Palette) (count : Nat)
    (h : f.bpp = 4 → px.length % 2 = 0) : (planeEncode f px pal count).length = px.length * f.bpp / 8 := by
  cases f <;> simp only [planeEncode, Format.bpp] at h ⊢
  case rgba32 => rw [length_flatMap_of_length encRgba32 4 (fun _ => rfl)]; omega
  case rgba16 => rw [length_flatMap_of_length encRgba16 2 (fun _ => rfl)]; omega
  case i4 => rw [packNibbles_length, List.length_map]; omega
  case i8 => rw [length_flatMap_of_length encI8 1 (fun _ => rfl)]; omega
  case ia4 => rw [packNibbles_length, List.length_map]; omega
  case ia8 => rw [length_flatMap_of_length encIa8 1 (fun _ => rfl)]; omega
  case ia16 => rw [length_flatMap_of_length encIa16 2 (fun _ => rfl)]; omega
  case ci4 => rw [packNibbles_length, List.length_map]; omega
  case ci8 => rw [length_flatMap_of_length (encCi8 pal count) 1 (fun _ => rfl)]; omega

/-- A format without palette encodes the same whatever palette stands there. -/
theorem planeEncode_unindexed (f : Format) (h : f.ci? = none) (px : List Pixel) (p q : Palette) (m n : Nat) :
    planeEncode f px p m = planeEncode f px q n := by
  cases f <;> first | rfl | cases h

end Sys2Proof.Machine
end

