-- ==== Sys2Proof/Laws/Palette.lean ====
section
/-! SUPPORT. The palette manager's functions (43_palette.md R131 to R135). -/

namespace Sys2Proof.Machine

open Sys2Proof

/-! ### paletteExtend -/

/-- The only error of the scan. -/
theorem paletteScan_error {cap : Nat} {pal : Palette} {n : Nat} {px : List Pixel} {e : ErrorKind}
    (h : paletteScan cap pal n px = .error e) : e = .paletteOverflow := by
  induction px generalizing pal n with
  | nil => simp [paletteScan] at h
  | cons p rest ih =>
    simp only [paletteScan] at h
    split at h
    · exact ih h
    · split at h
      · simpa using h.symm
      · exact ih h

/-- Everything a scan that succeeds did: it kept the entries below the count it started from and those at or above
the count it reached, holds every color of the image, and repeats no entry it did not find repeated. -/
theorem paletteScan_ok {cap : Nat} {pal pal' : Palette} {n m : Nat} {px : List Pixel} (hcap : cap ≤ 256)
    (hn : n ≤ cap) (h : paletteScan cap pal n px = .ok (pal', m)) :
    n ≤ m ∧ m ≤ cap ∧ (∀ i, i < n → palEntry pal' i = palEntry pal i) ∧
      (∀ i, m ≤ i → palEntry pal' i = palEntry pal i) ∧ (∀ p ∈ px, pack5551 p ∈ palPrefix pal' m) ∧
      ((palPrefix pal n).Nodup → (palPrefix pal' m).Nodup) := by
  induction px generalizing pal n with
  | nil =>
    simp only [paletteScan, Except.ok.injEq, Prod.mk.injEq] at h
    obtain ⟨rfl, rfl⟩ := h
    exact ⟨Nat.le_refl _, hn, fun _ _ => rfl, fun _ _ => rfl, by simp, id⟩
  | cons p rest ih =>
    simp only [paletteScan] at h
    split at h
    · rename_i hmem
      obtain ⟨h1, h2, h3, h4, h5, h6⟩ := ih hn h
      refine ⟨h1, h2, h3, h4, ?_, h6⟩
      intro q hq
      rcases List.mem_cons.mp hq with rfl | hq
      · obtain ⟨i, hi, he⟩ := (mem_palPrefix pal n _ (by omega)).mp hmem
        exact (mem_palPrefix pal' m _ (by omega)).mpr ⟨i, by omega, by rw [h3 i hi, he]⟩
      · exact h5 q hq
    · split at h
      · cases h
      · rename_i hnot hne
        have hlt : n < 256 := by omega
        obtain ⟨h1, h2, h3, h4, h5, h6⟩ := ih (by omega) h
        refine ⟨by omega, h2, ?_, ?_, ?_, ?_⟩
        · intro i hi
          rw [h3 i (by omega), palEntry_setIfInBounds pal n i _ hlt, if_neg (by omega)]
        · intro i hi
          rw [h4 i hi, palEntry_setIfInBounds pal n i _ hlt, if_neg (by omega)]
        · intro q hq
          rcases List.mem_cons.mp hq with rfl | hq
          · refine (mem_palPrefix pal' m _ (by omega)).mpr ⟨n, by omega, ?_⟩
            rw [h3 n (by omega), palEntry_setIfInBounds pal n n _ hlt, if_pos rfl]
          · exact h5 q hq
        · intro hd
          apply h6
          rw [palPrefix_succ_set pal n _ hlt]
          exact List.nodup_append.mpr ⟨hd, by simp, by
            intro a ha b hb
            rw [List.mem_singleton] at hb
            rintro rfl
            exact hnot (hb ▸ ha)⟩

theorem paletteExtend_error {cap : Nat} {pal : Palette} {n : Nat} {px : List Pixel} {e : ErrorKind}
    (h : paletteExtend pal n px cap = .error e) : e = .paletteOverflow := by
  simp only [paletteExtend] at h
  split at h
  · simpa using h.symm
  · exact paletteScan_error h

/-- Everything a paletteExtend that succeeds did (R131). -/
theorem paletteExtend_ok {cap : Nat} {pal pal' : Palette} {n m : Nat} {px : List Pixel} (hcap : cap ≤ 256)
    (h : paletteExtend pal n px cap = .ok (pal', m)) :
    n ≤ m ∧ m ≤ cap ∧ (∀ i, i < n → palEntry pal' i = palEntry pal i) ∧
      (∀ i, m ≤ i → palEntry pal' i = palEntry pal i) ∧ (∀ p ∈ px, pack5551 p ∈ palPrefix pal' m) ∧
      ((palPrefix pal n).Nodup → (palPrefix pal' m).Nodup) := by
  simp only [paletteExtend] at h
  split at h
  · cases h
  · exact paletteScan_ok hcap (by omega) h

/-- The scan of colors that are all present changes nothing. -/
theorem paletteScan_of_present {cap : Nat} {pal : Palette} {n : Nat} {px : List Pixel}
    (h : ∀ p ∈ px, pack5551 p ∈ palPrefix pal n) : paletteScan cap pal n px = .ok (pal, n) := by
  induction px with
  | nil => rfl
  | cons p rest ih =>
    rw [paletteScan, if_pos (h p (by simp))]
    exact ih fun q hq => h q (by simp [hq])

/-! ### paletteIndex -/

/-- What the index of a present color is (R132). -/
theorem paletteIndex_spec {pal : Palette} {n : Nat} {c : Word16} (hn : n ≤ 256) (h : c ∈ palPrefix pal n) :
    paletteIndex pal n c < n ∧ palEntry pal (paletteIndex pal n c) = c := by
  have hlt : (palPrefix pal n).idxOf c < (palPrefix pal n).length := List.idxOf_lt_length_of_mem h
  have hget : (palPrefix pal n)[(palPrefix pal n).idxOf c]? = some c := by
    rw [List.getElem?_eq_getElem hlt, List.getElem_idxOf]
  rw [palPrefix_length pal n hn] at hlt
  refine ⟨hlt, ?_⟩
  rw [palPrefix_getElem? pal n _ hn, if_pos hlt] at hget
  simpa [paletteIndex] using hget

/-! ### Palette bytes -/

@[simp] theorem paletteBytes_length (pal : Palette) (count cap : Nat) :
    (paletteBytes pal count cap).length = 2 * cap := by
  rw [paletteBytes, length_flatMap_of_length _ 2 (fun _ => rfl), List.length_range, Nat.mul_comm]

theorem paletteBytes_getElem? (pal : Palette) (count cap i : Nat) (h : i < cap) :
    (paletteBytes pal count cap)[2 * i]? =
        some ((if i < count then palEntry pal i else 0 : Word16).extractLsb' 8 8) ∧
      (paletteBytes pal count cap)[2 * i + 1]? =
        some ((if i < count then palEntry pal i else 0 : Word16).extractLsb' 0 8) := by
  constructor
  · rw [paletteBytes, getElem?_flatMap_of_length _ 2 (fun _ => rfl), Nat.mul_div_cancel_left i (by decide),
      List.getElem?_range h]
    simp [bytesOfWord]
  · have h1 : (2 * i + 1) / 2 = i := by omega
    have h2 : (2 * i + 1) % 2 = 1 := by omega
    rw [paletteBytes, getElem?_flatMap_of_length _ 2 (fun _ => rfl), h1, h2, List.getElem?_range h]
    simp [bytesOfWord]

theorem palEntry_paletteParse (B : List Byte) (cap i : Nat) (hcap : cap ≤ 256) :
    palEntry (paletteParse B cap) i =
      if i < cap then wordOfBytes (byteAt B (2 * i)) (byteAt B (2 * i + 1)) else 0 := by
  rw [paletteParse, palEntry_tabulate]
  by_cases h : i < 256
  · rw [if_pos h]
  · rw [if_neg h, if_neg (by omega)]

@[simp] theorem attachPalette_length (pb B : List Byte) (b : Bool) :
    (attachPalette pb B b).length = pb.length + B.length := by
  cases b <;> simp [attachPalette, Nat.add_comm]

/-- Everything splitPalette can do (R135). -/
theorem splitPalette_cases (B : List Byte) (nb : Nat) (atStart : Bool) :
    (B.length < nb ∧ splitPalette B nb atStart = .error .malformedPalette) ∨
      (nb ≤ B.length ∧ ∃ pb rest, splitPalette B nb atStart = .ok (pb, rest) ∧ pb.length = nb ∧
        rest.length = B.length - nb ∧
        pb = (if atStart then slice B 0 nb else slice B (B.length - nb) B.length) ∧
        rest = (if atStart then slice B nb B.length else slice B 0 (B.length - nb))) := by
  by_cases h : B.length < nb
  · exact .inl ⟨h, by rw [splitPalette, if_pos h]⟩
  · right
    refine ⟨by omega, ?_⟩
    cases atStart
    · refine ⟨_, _, by rw [splitPalette, if_neg h, if_neg (by simp)], ?_, ?_, by simp, by simp⟩ <;>
        simp only [slice_length] <;> omega
    · refine ⟨_, _, by rw [splitPalette, if_neg h, if_pos rfl], ?_, ?_, by simp, by simp⟩ <;>
        simp only [slice_length] <;> omega

end Sys2Proof.Machine
end

