-- ==== Sys2Proof/Laws/Swizzle.lean ====
section
/-! SUPPORT. The swizzle row by row (44_swizzle.md R150). -/

namespace Sys2Proof.Machine

open Sys2Proof

theorem chunkSize_cases (bpp : Nat) : chunkSize bpp = 16 ∨ chunkSize bpp = 8 := by
  unfold chunkSize; split <;> simp

theorem chunkSize_pos (bpp : Nat) : 0 < chunkSize bpp := by
  rcases chunkSize_cases bpp with h | h <;> omega

/-- The row the swizzle puts out for row i. -/
def swizzleRow (B : List Byte) (bpp W i : Nat) : List Byte :=
  let row := slice B (i * bytesPerRow bpp W) (i * bytesPerRow bpp W + bytesPerRow bpp W)
  if i % 2 = 0 then row else swapRow (chunkSize bpp) (bytesPerRow bpp W) row

theorem swizzle_eq (B : List Byte) (W H bpp : Nat) :
    swizzle B W H bpp = (List.range H).flatMap (swizzleRow B bpp W) := rfl

@[simp] theorem swizzle_zero (B : List Byte) (W bpp : Nat) : swizzle B W 0 bpp = [] := rfl

theorem swizzle_succ (B : List Byte) (W H bpp : Nat) :
    swizzle B W (H + 1) bpp = swizzle B W H bpp ++ swizzleRow B bpp W H := by
  simp [swizzle_eq, List.range_succ, List.flatMap_append]

/-- One chunk with its halves swapped. -/
def swapChunk (chunk : Nat) (row : List Byte) (c : Nat) : List Byte :=
  let ch := slice row (c * chunk) (c * chunk + chunk)
  slice ch (chunk / 2) chunk ++ slice ch 0 (chunk / 2)

theorem swapRow_eq (chunk bpr : Nat) (row : List Byte) :
    swapRow chunk bpr row = (List.range (bpr / chunk)).flatMap (swapChunk chunk row) := rfl

theorem swapChunk_length {chunk c : Nat} {row : List Byte} (he : chunk % 2 = 0) (h : c * chunk + chunk ≤ row.length) :
    (swapChunk chunk row c).length = chunk := by
  simp only [swapChunk, List.length_append, slice_length]
  omega

theorem swapChunk_getElem? {chunk c : Nat} {row : List Byte} (he : chunk % 2 = 0)
    (h : c * chunk + chunk ≤ row.length) (p : Nat) :
    (swapChunk chunk row c)[p]? =
      if p < chunk / 2 then row[c * chunk + (chunk / 2 + p)]?
      else if p < chunk then row[c * chunk + (p - chunk / 2)]?
      else none := by
  have hl : (slice (slice row (c * chunk) (c * chunk + chunk)) (chunk / 2) chunk).length = chunk / 2 := by
    simp only [slice_length]; omega
  simp only [swapChunk]
  rw [List.getElem?_append, hl]
  by_cases h1 : p < chunk / 2
  · have h2 : p < chunk - chunk / 2 := by omega
    have h3 : chunk / 2 + p < c * chunk + chunk - c * chunk := by omega
    rw [if_pos h1, if_pos h1, slice_getElem?, if_pos h2, slice_getElem?, if_pos h3]
  · rw [if_neg h1, if_neg h1, slice_getElem?]
    by_cases h4 : p < chunk
    · have h5 : p - chunk / 2 < chunk / 2 - 0 := by omega
      have h6 : 0 + (p - chunk / 2) < c * chunk + chunk - c * chunk := by omega
      rw [if_pos h4, if_pos h5, slice_getElem?, if_pos h6, Nat.zero_add]
    · have h5 : ¬ p - chunk / 2 < chunk / 2 - 0 := by omega
      rw [if_neg h4, if_neg h5]

theorem swapChunks_length {chunk : Nat} {row : List Byte} (he : chunk % 2 = 0) (n : Nat)
    (hn : n * chunk ≤ row.length) : ((List.range n).flatMap (swapChunk chunk row)).length = n * chunk := by
  induction n with
  | zero => simp
  | succ n ih =>
    rw [Nat.succ_mul] at hn
    rw [List.range_succ, List.flatMap_append, List.length_append, ih (by omega), List.flatMap_singleton,
      swapChunk_length he hn, Nat.succ_mul]

/-- The first n chunks of a row, swapped, byte by byte. -/
theorem swapChunks_getElem? {chunk : Nat} {row : List Byte} (he : chunk % 2 = 0) (hc : 0 < chunk) :
    ∀ n : Nat, n * chunk ≤ row.length → ∀ x,
      ((List.range n).flatMap (swapChunk chunk row))[x]? =
        if x < n * chunk then
          (if x % chunk < chunk / 2 then row[x + chunk / 2]? else row[x - chunk / 2]?)
        else none
  | 0, _, x => by simp
  | n + 1, hn, x => by
    have hn' : n * chunk + chunk ≤ row.length := by rw [← Nat.succ_mul]; exact hn
    have ih := swapChunks_getElem? he hc n (Nat.le_of_add_right_le hn')
    have hlen := swapChunks_length he n (Nat.le_of_add_right_le hn')
    rw [List.range_succ, List.flatMap_append, List.getElem?_append, hlen]
    simp only [List.flatMap_singleton]
    by_cases h1 : x < n * chunk
    · have h2 : x < (n + 1) * chunk := by rw [Nat.succ_mul]; omega
      rw [if_pos h1, ih, if_pos h1, if_pos h2]
    · rw [if_neg h1, swapChunk_getElem? he hn', Nat.succ_mul]
      by_cases h2 : x < n * chunk + chunk
      · have h3 : x % chunk = x - n * chunk := by
          have hx : x = (x - n * chunk) + chunk * n := by rw [Nat.mul_comm chunk n]; omega
          have hlt : x - n * chunk < chunk := by omega
          calc x % chunk = ((x - n * chunk) + chunk * n) % chunk := by rw [← hx]
            _ = x - n * chunk := by rw [Nat.add_mul_mod_self_left, Nat.mod_eq_of_lt hlt]
        rw [if_pos h2, h3]
        by_cases h4 : x - n * chunk < chunk / 2
        · have h5 : n * chunk + (chunk / 2 + (x - n * chunk)) = x + chunk / 2 := by omega
          rw [if_pos h4, if_pos h4, h5]
        · have h5 : n * chunk + (x - n * chunk - chunk / 2) = x - chunk / 2 := by omega
          have h6 : x - n * chunk < chunk := by omega
          rw [if_neg h4, if_neg h4, if_pos h6, h5]
      · have h4 : ¬ x - n * chunk < chunk / 2 := by omega
        have h6 : ¬ x - n * chunk < chunk := by omega
        rw [if_neg h2, if_neg h4, if_neg h6]

/-- A swapped row byte by byte: the bytes of its whole chunks, and nothing of a partial one. -/
theorem swapRow_getElem? (bpp bpr : Nat) (row : List Byte) (h : bpr ≤ row.length) (x : Nat) :
    (swapRow (chunkSize bpp) bpr row)[x]? =
      if x < bpr / chunkSize bpp * chunkSize bpp then
        (if x % chunkSize bpp < chunkSize bpp / 2 then row[x + chunkSize bpp / 2]? else row[x - chunkSize bpp / 2]?)
      else none := by
  have he : chunkSize bpp % 2 = 0 := by rcases chunkSize_cases bpp with h | h <;> rw [h]
  rw [swapRow_eq]
  exact swapChunks_getElem? he (chunkSize_pos bpp) _
    (Nat.le_trans (Nat.div_mul_le_self bpr (chunkSize bpp)) h) x

theorem swapRow_length (bpp bpr : Nat) (row : List Byte) (h : bpr ≤ row.length) :
    (swapRow (chunkSize bpp) bpr row).length = bpr / chunkSize bpp * chunkSize bpp := by
  rw [swapRow_eq]
  have he : chunkSize bpp % 2 = 0 := by rcases chunkSize_cases bpp with h | h <;> rw [h]
  have hle := Nat.le_trans (Nat.div_mul_le_self bpr (chunkSize bpp)) h
  exact swapChunks_length he _ hle

theorem swizzleRow_length (B : List Byte) (bpp W i : Nat)
    (h : (i + 1) * bytesPerRow bpp W ≤ B.length) :
    (swizzleRow B bpp W i).length =
      if i % 2 = 0 then bytesPerRow bpp W else bytesPerRow bpp W / chunkSize bpp * chunkSize bpp := by
  rw [Nat.succ_mul] at h
  have hl : (slice B (i * bytesPerRow bpp W) (i * bytesPerRow bpp W + bytesPerRow bpp W)).length =
      bytesPerRow bpp W := by simp only [slice_length]; omega
  simp only [swizzleRow]
  split
  · exact hl
  · exact swapRow_length bpp _ _ (by rw [hl])

/-- The swizzle of the first H rows reads only those rows. -/
theorem swizzle_congr {B C : List Byte} (W H bpp : Nat)
    (h : ∀ i, i < H * bytesPerRow bpp W → C[i]? = B[i]?) : swizzle C W H bpp = swizzle B W H bpp := by
  have hrow : ∀ i, i < H → swizzleRow C bpp W i = swizzleRow B bpp W i := by
    intro i hi
    have hs : slice C (i * bytesPerRow bpp W) (i * bytesPerRow bpp W + bytesPerRow bpp W) =
        slice B (i * bytesPerRow bpp W) (i * bytesPerRow bpp W + bytesPerRow bpp W) := by
      apply List.ext_getElem?
      intro j
      rw [slice_getElem?, slice_getElem?]
      by_cases hj : j < i * bytesPerRow bpp W + bytesPerRow bpp W - i * bytesPerRow bpp W
      · rw [if_pos hj, if_pos hj]
        apply h
        have h2 : (i + 1) * bytesPerRow bpp W ≤ H * bytesPerRow bpp W := Nat.mul_le_mul_right _ hi
        rw [Nat.succ_mul] at h2
        omega
      · rw [if_neg hj, if_neg hj]
    simp only [swizzleRow, hs]
  rw [swizzle_eq, swizzle_eq]
  simp only [List.flatMap]
  congr 1
  exact List.map_congr_left fun i hi => hrow i (List.mem_range.mp hi)

/-- The plane a whole-texture command hands on when the swizzle is off. -/
@[simp] theorem swizzleIf_false (B : List Byte) (W H bpp : Nat) : swizzleIf false B W H bpp = B := rfl

@[simp] theorem swizzleIf_true (B : List Byte) (W H bpp : Nat) : swizzleIf true B W H bpp = swizzle B W H bpp := rfl

end Sys2Proof.Machine
end

