-- ==== Sys2Proof/Laws/Commands.lean ====
section
/-! SUPPORT. What each command can do, said once: every instruction commits one result, and each shared body that
succeeds met its checks and made its writes. -/

namespace Sys2Proof.Machine

open Sys2Proof

/-! ### One result per instruction -/

/-- The result an instruction commits. -/
def commandResult (i : Instr) (s : State) : Except ErrorKind State :=
  match i with
  | .nop _ => .ok s
  | .decode fmt => withFormat fmt fun f => decodeBody f s
  | .encode fmt => withFormat fmt fun f => encodeBody f s
  | .planeDecodeRgba32 => planeDecodeBody .rgba32 s
  | .planeDecodeRgba16 => planeDecodeBody .rgba16 s
  | .planeDecodeI4 => planeDecodeBody .i4 s
  | .planeDecodeI8 => planeDecodeBody .i8 s
  | .planeDecodeIa4 => planeDecodeBody .ia4 s
  | .planeDecodeIa8 => planeDecodeBody .ia8 s
  | .planeDecodeIa16 => planeDecodeBody .ia16 s
  | .planeDecodeCi4 => planeDecodeBody .ci4 s
  | .planeDecodeCi8 => planeDecodeBody .ci8 s
  | .planeEncodeRgba32 => planeEncodeBody .rgba32 s
  | .planeEncodeRgba16 => planeEncodeBody .rgba16 s
  | .planeEncodeI4 => planeEncodeBody .i4 s
  | .planeEncodeI8 => planeEncodeBody .i8 s
  | .planeEncodeIa4 => planeEncodeBody .ia4 s
  | .planeEncodeIa8 => planeEncodeBody .ia8 s
  | .planeEncodeIa16 => planeEncodeBody .ia16 s
  | .planeEncodeCi4 => planeEncodeBody .ci4 s
  | .planeEncodeCi8 => planeEncodeBody .ci8 s
  | .palBuild fmt => withIndexed fmt fun c => palBuildBody c s
  | .palRead fmt => withIndexed fmt fun c => palReadBody c s
  | .palWrite fmt => withIndexed fmt fun c => palWriteBody c s
  | .swizzle fmt => withFormat fmt fun f => swizzleBody f s
  | .unpack5551 _ => .ok { s with pixel := unpack5551 s.word }
  | .pack5551 _ => .ok { s with word := pack5551 s.pixel }

theorem exec_eq_commit (i : Instr) (s : State) : exec i s = commit s (commandResult i s) := by cases i <;> rfl

theorem exec_planeDecodeInstr (f : Format) (s : State) :
    exec (planeDecodeInstr f) s = commit s (planeDecodeBody f s) := by cases f <;> rfl

theorem exec_planeEncodeInstr (f : Format) (s : State) :
    exec (planeEncodeInstr f) s = commit s (planeEncodeBody f s) := by cases f <;> rfl

/-! ### The format check -/

theorem Format.ofCode_code (f : Format) : Format.ofCode f.code = some f := by cases f <;> rfl

theorem withFormat_code (f : Format) (body : Format → Except ErrorKind State) :
    withFormat f.code body = body f := by cases f <;> rfl

theorem withFormat_unassigned {fmt : FmtCode} (h : 8 < fmt.toNat) (body : Format → Except ErrorKind State) :
    withFormat fmt body = .error .unsupportedFormat := by
  have key : ∀ fmt : FmtCode, 8 < fmt.toNat → admitFormat fmt = .error .unsupportedFormat := by decide
  simp only [withFormat, key fmt h]

theorem withIndexed_unindexed {fmt : FmtCode} (h : fmt.toNat < 7 ∨ 8 < fmt.toNat)
    (body : CIFormat → Except ErrorKind State) : withIndexed fmt body = .error .unsupportedFormat := by
  have key : ∀ fmt : FmtCode, (fmt.toNat < 7 ∨ 8 < fmt.toNat) → admitIndexed fmt = .error .unsupportedFormat := by
    decide
  simp only [withIndexed, key fmt h]

/-- Everything the format check can do. -/
theorem withFormat_ok {fmt : FmtCode} {body : Format → Except ErrorKind State} {t : State}
    (h : withFormat fmt body = .ok t) : ∃ f, Format.ofCode fmt = some f ∧ body f = .ok t := by
  simp only [withFormat, admitFormat] at h
  cases hf : Format.ofCode fmt with
  | none => rw [hf] at h; cases h
  | some f => rw [hf] at h; exact ⟨f, rfl, h⟩

/-- Everything the palette commands' format check can do. -/
theorem withIndexed_ok {fmt : FmtCode} {body : CIFormat → Except ErrorKind State} {t : State}
    (h : withIndexed fmt body = .ok t) :
    ∃ f c, Format.ofCode fmt = some f ∧ f.ci? = some c ∧ body c = .ok t := by
  simp only [withIndexed, admitIndexed] at h
  cases hf : Format.ofCode fmt with
  | none => rw [hf] at h; cases h
  | some f =>
    rw [hf] at h
    cases hc : f.ci? with
    | none => simp only [hc] at h; cases h
    | some c => simp only [hc] at h; exact ⟨f, c, rfl, hc, h⟩

/-! ### The bodies that succeed -/

theorem planeDecodeBody_ok {f : Format} {s t : State} (h : planeDecodeBody f s = .ok t) :
    oddWidth f s.imgWidth = false ∧ s.rawLength ≤ s.rawCap ∧ s.imgPixels ≤ s.surfCap ∧
      planeBytes f s.imgWidth s.imgHeight ≤ s.rawLength ∧
      t = s.writeSurf
        (planeDecode f (s.rawBytes 0 (planeBytes f s.imgWidth s.imgHeight)) s.imgPixels s.pal) := by
  simp only [planeDecodeBody] at h
  split at h
  · cases h
  · split at h
    · cases h
    · split at h
      · cases h
      · rename_i h1 h2 h3
        exact ⟨by simpa using h1, by omega, by omega, by omega, by simpa using h.symm⟩

theorem planeEncodeBody_ok {f : Format} {s t : State} (h : planeEncodeBody f s = .ok t) :
    oddWidth f s.imgWidth = false ∧ s.imgPixels ≤ s.surfCap ∧ planeBytes f s.imgWidth s.imgHeight ≤ s.rawCap ∧
      ∃ pal count, encodePalette f s.pal s.paletteCount (s.surfPixels s.imgPixels) = .ok (pal, count) ∧
        t = ((s.writeRaw (planeEncode f (s.surfPixels s.imgPixels) pal count)).setRawLen
          (planeBytes f s.imgWidth s.imgHeight)).storeIfIndexed f pal count := by
  simp only [planeEncodeBody] at h
  split at h
  · cases h
  · split at h
    · cases h
    · split at h
      · cases h
      · rename_i h1 h2 _ pal count h3
        split at h
        · cases h
        · rename_i h4
          exact ⟨by simpa using h1, by omega, by omega, pal, count, h3, by simpa using h.symm⟩

theorem palBuildBody_ok {c : CIFormat} {s t : State} (h : palBuildBody c s = .ok t) :
    s.imgPixels ≤ s.surfCap ∧ ∃ pal count,
      paletteExtend palZero 0 (s.surfPixels s.imgPixels) c.cap = .ok (pal, count) ∧ t = s.storePalette pal count := by
  simp only [palBuildBody] at h
  split at h
  · cases h
  · split at h
    · cases h
    · rename_i h1 pal count h2
      exact ⟨by omega, pal, count, h2, by simpa using h.symm⟩

theorem palReadBody_ok {c : CIFormat} {s t : State} (h : palReadBody c s = .ok t) :
    s.rawLength ≤ s.rawCap ∧ ∃ pb rest,
      splitPalette (s.rawBytes 0 s.rawLength) c.paletteSize s.palAtStart = .ok (pb, rest) ∧
      t = ((s.storePalette (paletteParse pb c.cap) c.cap).writeRaw rest).setRawLen
        (s.rawLength - c.paletteSize) := by
  simp only [palReadBody] at h
  split at h
  · cases h
  · split at h
    · cases h
    · rename_i h1 pb rest h2
      exact ⟨by omega, pb, rest, h2, by simpa using h.symm⟩

theorem palWriteBody_ok {c : CIFormat} {s t : State} (h : palWriteBody c s = .ok t) :
    s.paletteCount ≤ c.cap ∧ s.rawLength + c.paletteSize ≤ s.rawCap ∧
      t = (s.writeRaw (attachPalette (paletteBytes s.pal s.paletteCount c.cap) (s.rawBytes 0 s.rawLength)
        s.palAtStart)).setRawLen (s.rawLength + c.paletteSize) := by
  simp only [palWriteBody] at h
  split at h
  · cases h
  · split at h
    · cases h
    · split at h
      · cases h
      · rename_i h1 h2 h3
        exact ⟨by omega, by omega, by simpa using h.symm⟩

/-- A SWIZZLE that succeeds changed nothing when disabled, and otherwise met its checks and wrote the transform. -/
theorem swizzleBody_ok {f : Format} {s t : State} (h : swizzleBody f s = .ok t) :
    (s.swzEn = false ∧ t = s) ∨
      (s.swzEn = true ∧ oddWidth f s.imgWidth = false ∧ s.rawLength ≤ s.rawCap ∧
        planeBytes f s.imgWidth s.imgHeight ≤ s.rawLength ∧
        t = s.storeTexture
          (swizzle (s.rawBytes 0 (planeBytes f s.imgWidth s.imgHeight)) s.imgWidth s.imgHeight f.bpp)) := by
  simp only [swizzleBody] at h
  split at h
  · rename_i h0
    exact .inl ⟨by simpa using h0, by simpa using h.symm⟩
  · split at h
    · cases h
    · split at h
      · cases h
      · split at h
        · cases h
        · rename_i h0 h1 h2 h3
          exact .inr ⟨by simpa using h0, by simpa using h1, by omega, by omega, by simpa using h.symm⟩

theorem decodeBody_ok {f : Format} {s t : State} (h : decodeBody f s = .ok t) :
    oddWidth f s.imgWidth = false ∧ s.rawLength ≤ s.rawCap ∧ s.imgPixels ≤ s.surfCap ∧
      ∃ pal rest, decodePalette f s (s.rawBytes 0 s.rawLength) = .ok (pal, rest) ∧
        planeBytes f s.imgWidth s.imgHeight ≤ rest.length ∧
        planeBytes f s.imgWidth s.imgHeight ≤
          (swizzleIf s.swzEn (slice rest 0 (planeBytes f s.imgWidth s.imgHeight)) s.imgWidth s.imgHeight
            f.bpp).length ∧
        t = (s.writeSurf (planeDecode f
          (swizzleIf s.swzEn (slice rest 0 (planeBytes f s.imgWidth s.imgHeight)) s.imgWidth s.imgHeight f.bpp)
          s.imgPixels pal)).loadIfIndexed f pal := by
  simp only [decodeBody] at h
  split at h
  · cases h
  · split at h
    · cases h
    · split at h
      · cases h
      · rename_i h1 h2 _ pal rest h3
        split at h
        · cases h
        · split at h
          · cases h
          · rename_i h4 h5
            exact ⟨by simpa using h1, by omega, by omega, pal, rest, h3, by omega, by omega, by simpa using h.symm⟩

theorem encodeBody_ok {f : Format} {s t : State} (h : encodeBody f s = .ok t) :
    oddWidth f s.imgWidth = false ∧ s.imgPixels ≤ s.surfCap ∧
      ∃ pal count, encodePalette f palZero 0 (s.surfPixels s.imgPixels) = .ok (pal, count) ∧
        (encodeTexture f s (s.surfPixels s.imgPixels) pal count).length ≤ s.rawCap ∧
        t = (s.storeTexture (encodeTexture f s (s.surfPixels s.imgPixels) pal count)).storeIfIndexed f pal count := by
  simp only [encodeBody] at h
  split at h
  · cases h
  · split at h
    · cases h
    · split at h
      · cases h
      · rename_i h1 h2 _ pal count h3
        split at h
        · cases h
        · rename_i h4
          exact ⟨by simpa using h1, by omega, pal, count, h3, by omega, by simpa using h.symm⟩

end Sys2Proof.Machine
end

