-- ==== Sys2Proof/Laws/HostPort.lean ====
section
/-! SUPPORT. What the host's events and a step can do, said once. -/

namespace Sys2Proof.Machine

open Sys2Proof

theorem regAt_regOffset (r : Reg) : regAt (regOffset r) = some r := by cases r <;> rfl

theorem regAt_some {offset : Nat} {r : Reg} (h : regAt offset = some r) : offset = regOffset r := by
  simp only [regAt] at h
  repeat' split at h
  all_goals first
    | cases h; done
    | (simp only [Option.some.injEq] at h; subst h; simp only [regOffset]; omega)

/-- The map ends at 0x20, and every register stands at a multiple of 4 (10_state.md R22, R34). -/
theorem regAt_reserved {offset : Nat} (h : 0x24 ≤ offset ∨ offset % 4 ≠ 0) : regAt offset = none := by
  cases hr : regAt offset with
  | none => rfl
  | some r =>
    have := regAt_some hr
    subst this
    cases r <;> simp [regOffset] at h

theorem hostWriteRaw_of_lt {s : State} {a : Nat} (h : a < s.rawCap) (v : Byte) :
    s.hostWriteRaw a v = { s with raw := s.raw.write a v } := if_pos h

theorem hostWriteRaw_of_le {s : State} {a : Nat} (h : s.rawCap ≤ a) (v : Byte) : s.hostWriteRaw a v = s :=
  if_neg (by omega)

theorem hostWriteSurf_of_lt {s : State} {k : Nat} (h : k < s.surfCap) (p : Pixel) :
    s.hostWriteSurf k p = { s with surf := s.surf.write k p } := if_pos h

theorem hostWriteSurf_of_le {s : State} {k : Nat} (h : s.surfCap ≤ k) (p : Pixel) : s.hostWriteSurf k p = s :=
  if_neg (by omega)

/-- Everything a word written to CMD can do: it is the command it decodes to, or the error alone. -/
theorem issue_cases (c : Word32) (s : State) :
    (∃ i, decode c = .ok i ∧ issue c s = commit s (commandResult i s)) ∨
      ∃ r, decode c = .error r ∧ issue c s = .next (s.raise (rejectError r)) := by
  cases h : decode c with
  | ok i => exact .inl ⟨i, rfl, by simp only [issue, h, exec_eq_commit]⟩
  | error r => exact .inr ⟨r, rfl, by simp only [issue, h]⟩

/-- Everything a host event can do when it has a next state. -/
theorem perform_next {e : HostEvent} {s t : State} (h : perform e s = .next t) :
    (∃ c, e = .writeReg 0x0C c ∧ issue c s = .next t) ∨
      (∃ r v, r ≠ .cmd ∧ e = .writeReg (regOffset r) v ∧ t = s.setReg r v) ∨
      (∃ offset v, e = .writeReg offset v ∧ regAt offset = none ∧ t = s) ∨
      (∃ d, t = s.respond d) ∨
      (∃ a v, e = .writeRaw a v ∧ t = s.hostWriteRaw a v) ∨
      (∃ k p, e = .writeSurf k p ∧ t = s.hostWriteSurf k p) ∨
      (∃ i v, e = .writePal i v ∧ t = s.hostWritePal i v) ∨
      (e = .assertReset ∧ t = s.assertReset) := by
  cases e with
  | writeReg offset v =>
    simp only [perform, hostWriteReg] at h
    split at h
    · rename_i hr
      exact .inl ⟨v, by rw [regAt_some hr]; rfl, h⟩
    · rename_i r hne hr
      refine .inr (.inl ⟨r, v, ?_, by rw [regAt_some hr], (Outcome.next_inj h).symm⟩)
      rintro rfl
      exact hne rfl
    · rename_i hr
      exact .inr (.inr (.inl ⟨offset, v, rfl, hr, (Outcome.next_inj h).symm⟩))
  | readReg offset => exact .inr (.inr (.inr (.inl ⟨_, (Outcome.next_inj h).symm⟩)))
  | writeRaw a v => exact .inr (.inr (.inr (.inr (.inl ⟨a, v, rfl, (Outcome.next_inj h).symm⟩))))
  | readRaw a => exact .inr (.inr (.inr (.inl ⟨_, (Outcome.next_inj h).symm⟩)))
  | writeSurf k p => exact .inr (.inr (.inr (.inr (.inr (.inl ⟨k, p, rfl, (Outcome.next_inj h).symm⟩)))))
  | readSurf k => exact .inr (.inr (.inr (.inl ⟨_, (Outcome.next_inj h).symm⟩)))
  | writePal i v => exact .inr (.inr (.inr (.inr (.inr (.inr (.inl ⟨i, v, rfl, (Outcome.next_inj h).symm⟩))))))
  | readPal i => exact .inr (.inr (.inr (.inl ⟨_, (Outcome.next_inj h).symm⟩)))
  | assertReset => exact .inr (.inr (.inr (.inr (.inr (.inr (.inr ⟨rfl, (Outcome.next_inj h).symm⟩))))))
  | losePower => cases h

/-- Everything a step can do when it has a next state: nothing, when no event is pending, or the host's next event. -/
theorem step_next {s t : State} (h : step s = .next t) :
    (s.pending = [] ∧ t = s) ∨
      ∃ e rest, s.pending = e :: rest ∧ perform e (s.setPending rest) = .next t := by
  simp only [step, stepEvent] at h
  split at h
  · rename_i hp
    exact .inl ⟨hp, (Outcome.next_inj h).symm⟩
  · rename_i e rest hp
    exact .inr ⟨e, rest, hp, h⟩

end Sys2Proof.Machine
end

