-- ==== Sys2Proof/Laws/PerInstr.lean ====
section
/-! SUPPORT. The fields of an instruction's word, one lemma per instruction (30_encoding.md R60 to R62): RSV is 0, OP
and FMT are the instruction's, and they name it. -/

namespace Sys2Proof.Laws.EncodedFields

open Sys2Proof

/-- The word of i has RSV = 0, the operation and the format code of i, and these name i. -/
def Statement (i : Instr) : Prop :=
  rsvField (encode i) = 0 ∧ opField (encode i) = i.op.code ∧ fmtField (encode i) = i.fmt ∧
    i.op.toInstr i.fmt = .ok i

theorem nop (fmt : FmtCode) : Statement (.nop fmt) := by
  refine ⟨?_, ?_, ?_, rfl⟩ <;> revert fmt <;> decide

theorem decode (fmt : FmtCode) : Statement (.decode fmt) := by
  refine ⟨?_, ?_, ?_, rfl⟩ <;> revert fmt <;> decide

theorem encode (fmt : FmtCode) : Statement (.encode fmt) := by
  refine ⟨?_, ?_, ?_, rfl⟩ <;> revert fmt <;> decide

theorem planeDecodeRgba32 : Statement .planeDecodeRgba32 := by refine ⟨?_, ?_, ?_, rfl⟩ <;> decide

theorem planeDecodeRgba16 : Statement .planeDecodeRgba16 := by refine ⟨?_, ?_, ?_, rfl⟩ <;> decide

theorem planeDecodeI4 : Statement .planeDecodeI4 := by refine ⟨?_, ?_, ?_, rfl⟩ <;> decide

theorem planeDecodeI8 : Statement .planeDecodeI8 := by refine ⟨?_, ?_, ?_, rfl⟩ <;> decide

theorem planeDecodeIa4 : Statement .planeDecodeIa4 := by refine ⟨?_, ?_, ?_, rfl⟩ <;> decide

theorem planeDecodeIa8 : Statement .planeDecodeIa8 := by refine ⟨?_, ?_, ?_, rfl⟩ <;> decide

theorem planeDecodeIa16 : Statement .planeDecodeIa16 := by refine ⟨?_, ?_, ?_, rfl⟩ <;> decide

theorem planeDecodeCi4 : Statement .planeDecodeCi4 := by refine ⟨?_, ?_, ?_, rfl⟩ <;> decide

theorem planeDecodeCi8 : Statement .planeDecodeCi8 := by refine ⟨?_, ?_, ?_, rfl⟩ <;> decide

theorem planeEncodeRgba32 : Statement .planeEncodeRgba32 := by refine ⟨?_, ?_, ?_, rfl⟩ <;> decide

theorem planeEncodeRgba16 : Statement .planeEncodeRgba16 := by refine ⟨?_, ?_, ?_, rfl⟩ <;> decide

theorem planeEncodeI4 : Statement .planeEncodeI4 := by refine ⟨?_, ?_, ?_, rfl⟩ <;> decide

theorem planeEncodeI8 : Statement .planeEncodeI8 := by refine ⟨?_, ?_, ?_, rfl⟩ <;> decide

theorem planeEncodeIa4 : Statement .planeEncodeIa4 := by refine ⟨?_, ?_, ?_, rfl⟩ <;> decide

theorem planeEncodeIa8 : Statement .planeEncodeIa8 := by refine ⟨?_, ?_, ?_, rfl⟩ <;> decide

theorem planeEncodeIa16 : Statement .planeEncodeIa16 := by refine ⟨?_, ?_, ?_, rfl⟩ <;> decide

theorem planeEncodeCi4 : Statement .planeEncodeCi4 := by refine ⟨?_, ?_, ?_, rfl⟩ <;> decide

theorem planeEncodeCi8 : Statement .planeEncodeCi8 := by refine ⟨?_, ?_, ?_, rfl⟩ <;> decide

theorem palBuild (fmt : FmtCode) : Statement (.palBuild fmt) := by
  refine ⟨?_, ?_, ?_, rfl⟩ <;> revert fmt <;> decide

theorem palRead (fmt : FmtCode) : Statement (.palRead fmt) := by
  refine ⟨?_, ?_, ?_, rfl⟩ <;> revert fmt <;> decide

theorem palWrite (fmt : FmtCode) : Statement (.palWrite fmt) := by
  refine ⟨?_, ?_, ?_, rfl⟩ <;> revert fmt <;> decide

theorem swizzle (fmt : FmtCode) : Statement (.swizzle fmt) := by
  refine ⟨?_, ?_, ?_, rfl⟩ <;> revert fmt <;> decide

theorem unpack5551 (fmt : FmtCode) : Statement (.unpack5551 fmt) := by
  refine ⟨?_, ?_, ?_, rfl⟩ <;> revert fmt <;> decide

theorem pack5551 (fmt : FmtCode) : Statement (.pack5551 fmt) := by
  refine ⟨?_, ?_, ?_, rfl⟩ <;> revert fmt <;> decide

end Sys2Proof.Laws.EncodedFields
end

