-- ==== Sys2Proof/Tests/Slice0.lean ====
section
/-! SUPPORT. The author's tests. Expected values are the spec's own examples (the Example line of each instruction's
rule, 30_encoding.md R68) or worked by hand from its rules; a test_witness_ theorem shows a concrete input meeting the
hypotheses of each clause of the statement it is named after, at a boundary of its range. -/

namespace Sys2Proof.Tests

set_option Elab.async false

open Sys2Proof Sys2Proof.Machine

/-! ### Helpers -/

/-- The state after reset, in an instance of 64 bytes and 64 pixels. -/
def start : State := { State.reset with rawCap := 64, surfCap := 64 }

/-- A list of values from address 0. -/
def cells {α : Type} (xs : List α) : Memory α := Memory.writeAll [] 0 xs

/-- A W×H geometry, with some bytes as the texture. -/
def texture (W H : Nat) (bytes : List Byte) : State :=
  { start with
    width := BitVec.ofNat 16 W, height := BitVec.ofNat 16 H, raw := cells bytes,
    rawLen := BitVec.ofNat 32 bytes.length }

/-- A W×H geometry, with some pixels as the image. -/
def picture (W H : Nat) (px : List Pixel) : State :=
  { start with width := BitVec.ofNat 16 W, height := BitVec.ofNat 16 H, surf := cells px }

/-- The state with its first palette entries, and PAL_COUNT, set. -/
def withPalette (entries : List Word16) (s : State) : State :=
  { s with pal := palTabulate fun i => entries.getD i 0, palCount := BitVec.ofNat 9 entries.length }

/-- The state with a length in RAW_LEN. -/
def withLength (n : Nat) (s : State) : State := { s with rawLen := BitVec.ofNat 32 n }

/-- The state of an instance of other capacities. -/
def withCaps (raw surf : Nat) (s : State) : State := { s with rawCap := raw, surfCap := surf }

/-- The next state, or the reset state where there is none. -/
def after (o : Host.Outcome State Fault Refusal) : State :=
  match o with
  | .next t => t
  | .fault _ => State.reset
  | .refused _ => State.reset

/-- STATUS.ERR after an instruction; none where there is no next state. -/
def errOf (i : Instr) (s : State) : Option Nat :=
  match exec i s with
  | .next t => some t.err.toNat
  | .fault _ => none
  | .refused _ => none

/-- The two colors of the examples of 42_plane_encode.md R119: red and blue, opaque. -/
def redBlue : List Pixel := [⟨248, 0, 0, 255⟩, ⟨0, 0, 248, 255⟩]

/-- n pixels of n different colors. -/
def manyColors (n : Nat) : List Pixel := (List.range n).map fun k => ⟨BitVec.ofNat 8 (8 * k), 0, 0, 255⟩

/-! ### Well-formedness refuses the codes an operation does not admit (30_encoding.md R62) -/

theorem test_wf_refuses_decode_9 : (Instr.decode 9).wf = false := by decide
theorem test_wf_refuses_encode_15 : (Instr.encode 15).wf = false := by decide
theorem test_wf_refuses_swizzle_9 : (Instr.swizzle 9).wf = false := by decide
theorem test_wf_refuses_palBuild_3_and_9 : (Instr.palBuild 3).wf = false ∧ (Instr.palBuild 9).wf = false := by decide
theorem test_wf_refuses_palRead_6_and_15 : (Instr.palRead 6).wf = false ∧ (Instr.palRead 15).wf = false := by decide
theorem test_wf_refuses_palWrite_0_and_9 : (Instr.palWrite 0).wf = false ∧ (Instr.palWrite 9).wf = false := by decide
theorem test_wf_accepts_boundaries : (Instr.decode 8).wf = true ∧ (Instr.palBuild 7).wf = true ∧ (Instr.nop 15).wf = true := by
  decide

/-! ### Decoding: every constructor's word, from the fields of 30_encoding.md R60 to R62

RSV is the 20 high bits, then four bits of FMT, then eight of OP. -/

theorem test_decode_nop : decode 0b00000000000000000000000000000000 = .ok (.nop 0) := by decide
theorem test_decode_nop_keeps_fmt : decode 0b00000000000000000000111100000000 = .ok (.nop 15) := by decide
theorem test_decode_decode : decode 0b00000000000000000000011100000001 = .ok (.decode 7) := by decide
theorem test_decode_encode : decode 0b00000000000000000000001100000010 = .ok (.encode 3) := by decide
theorem test_decode_planeDecodeRgba32 : decode 0b00000000000000000000000000010000 = .ok .planeDecodeRgba32 := by decide
theorem test_decode_planeDecodeRgba16 : decode 0b00000000000000000000000100010000 = .ok .planeDecodeRgba16 := by decide
theorem test_decode_planeDecodeI4 : decode 0b00000000000000000000001000010000 = .ok .planeDecodeI4 := by decide
theorem test_decode_planeDecodeI8 : decode 0b00000000000000000000001100010000 = .ok .planeDecodeI8 := by decide
theorem test_decode_planeDecodeIa4 : decode 0b00000000000000000000010000010000 = .ok .planeDecodeIa4 := by decide
theorem test_decode_planeDecodeIa8 : decode 0b00000000000000000000010100010000 = .ok .planeDecodeIa8 := by decide
theorem test_decode_planeDecodeIa16 : decode 0b00000000000000000000011000010000 = .ok .planeDecodeIa16 := by decide
theorem test_decode_planeDecodeCi4 : decode 0b00000000000000000000011100010000 = .ok .planeDecodeCi4 := by decide
theorem test_decode_planeDecodeCi8 : decode 0b00000000000000000000100000010000 = .ok .planeDecodeCi8 := by decide
theorem test_decode_planeEncodeRgba32 : decode 0b00000000000000000000000000010001 = .ok .planeEncodeRgba32 := by decide
theorem test_decode_planeEncodeRgba16 : decode 0b00000000000000000000000100010001 = .ok .planeEncodeRgba16 := by decide
theorem test_decode_planeEncodeI4 : decode 0b00000000000000000000001000010001 = .ok .planeEncodeI4 := by decide
theorem test_decode_planeEncodeI8 : decode 0b00000000000000000000001100010001 = .ok .planeEncodeI8 := by decide
theorem test_decode_planeEncodeIa4 : decode 0b00000000000000000000010000010001 = .ok .planeEncodeIa4 := by decide
theorem test_decode_planeEncodeIa8 : decode 0b00000000000000000000010100010001 = .ok .planeEncodeIa8 := by decide
theorem test_decode_planeEncodeIa16 : decode 0b00000000000000000000011000010001 = .ok .planeEncodeIa16 := by decide
theorem test_decode_planeEncodeCi4 : decode 0b00000000000000000000011100010001 = .ok .planeEncodeCi4 := by decide
theorem test_decode_planeEncodeCi8 : decode 0b00000000000000000000100000010001 = .ok .planeEncodeCi8 := by decide
theorem test_decode_palBuild : decode 0b00000000000000000000100000100000 = .ok (.palBuild 8) := by decide
theorem test_decode_palRead : decode 0b00000000000000000000011100100001 = .ok (.palRead 7) := by decide
theorem test_decode_palWrite : decode 0b00000000000000000000011100100010 = .ok (.palWrite 7) := by decide
theorem test_decode_swizzle : decode 0b00000000000000000000000100110000 = .ok (.swizzle 1) := by decide
theorem test_decode_unpack5551 : decode 0b00000000000000000000000001000000 = .ok (.unpack5551 0) := by decide
theorem test_decode_pack5551 : decode 0b00000000000000000000000001000001 = .ok (.pack5551 0) := by decide
theorem test_decode_rejects_reserved_bit : decode 0b00000000000000000001000000000001 = .error .illegalCommand := by decide
theorem test_decode_rejects_top_bit : decode 0b10000000000000000000000000000000 = .error .illegalCommand := by decide
theorem test_decode_rejects_unassigned_op : decode 0x03 = .error .illegalCommand ∧ decode 0x42 = .error .illegalCommand := by decide
theorem test_decode_rejects_plane_format : decode 0x910 = .error .unsupportedFormat ∧ decode 0xF11 = .error .unsupportedFormat := by
  decide
theorem test_decodeTableWord : decodeTableWord 32 0x711 = some .planeEncodeCi4 ∧ decodeTableWord 32 0x1711 = none := by decide
theorem test_assemble : assemble .planeEncode (some .ia8) = some 0x511 ∧ assemble .nop none = some 0 ∧
    assemble .swizzle none = none := by decide
theorem test_assemblyText : assemblyText .planeEncode (some .ia8) = "PLANE_ENCODE IA8" := by decide

/-! ### One step of each command: the Example of its rule -/

/-- R162: STATUS.ERR = 3 then NOP gives 0. -/
theorem test_nop : (after (exec (.nop 5) { start with err := 3 })).err = 0 := by decide

/-- R82: WORD = 0xF83F gives (248, 0, 248, 255). -/
theorem test_unpack5551 : (after (exec (.unpack5551 0) { start with word := 0xF83F })).pixel = ⟨248, 0, 248, 255⟩ := by
  decide

/-- R83: (200, 100, 50, 255) gives 0xCB0D. -/
theorem test_pack5551 : (after (exec (.pack5551 0) { start with pixel := ⟨200, 100, 50, 255⟩ })).word = 0xCB0D := by
  decide

/-- R83: alpha 128 gives bit 0 = 0, and alpha 129 gives 1. -/
theorem test_pack5551_threshold : pack5551 ⟨0, 0, 0, 128⟩ = 0 ∧ pack5551 ⟨0, 0, 0, 129⟩ = 1 := by decide

/-- R92. -/
theorem test_planeDecodeRgba32 :
    (after (exec .planeDecodeRgba32 (texture 1 1 [1, 2, 3, 4]))).surf = [(0, ⟨1, 2, 3, 4⟩)] := by decide

/-- R93. -/
theorem test_planeDecodeRgba16 :
    (after (exec .planeDecodeRgba16 (texture 1 1 [0xF8, 0x3F]))).surf = [(0, ⟨248, 0, 248, 255⟩)] := by decide

/-- R94: the left pixel is the high nibble. -/
theorem test_planeDecodeI4 :
    (after (exec .planeDecodeI4 (texture 2 1 [0xF3]))).surf =
      [(0, ⟨0xF0, 0xF0, 0xF0, 255⟩), (1, ⟨0x30, 0x30, 0x30, 255⟩)] := by decide

/-- R94, R183: an odd width is an error, and nothing is written. -/
theorem test_planeDecodeI4_odd :
    exec .planeDecodeI4 (texture 3 1 [1, 2, 3]) = .next { texture 3 1 [1, 2, 3] with err := 4 } := rfl

/-- R95. -/
theorem test_planeDecodeI8 :
    (after (exec .planeDecodeI8 (texture 1 1 [0x7F]))).surf = [(0, ⟨127, 127, 127, 255⟩)] := by decide

/-- R96. -/
theorem test_planeDecodeIa4 :
    (after (exec .planeDecodeIa4 (texture 2 1 [0xB6]))).surf = [(0, ⟨160, 160, 160, 255⟩), (1, ⟨96, 96, 96, 0⟩)] := by
  decide

/-- R97. -/
theorem test_planeDecodeIa8 :
    (after (exec .planeDecodeIa8 (texture 1 1 [0x9C]))).surf = [(0, ⟨144, 144, 144, 192⟩)] := by decide

/-- R98. -/
theorem test_planeDecodeIa16 :
    (after (exec .planeDecodeIa16 (texture 1 1 [0x12, 0x34]))).surf = [(0, ⟨0x12, 0x12, 0x12, 0x34⟩)] := by decide

/-- R99. -/
theorem test_planeDecodeCi4 :
    (after (exec .planeDecodeCi4 (withPalette [0x0000, 0xF801] (texture 2 1 [0x10])))).surf =
      [(0, ⟨248, 0, 0, 255⟩), (1, ⟨0, 0, 0, 0⟩)] := by decide +kernel

/-- R100. -/
theorem test_planeDecodeCi8 :
    (after (exec .planeDecodeCi8 (withPalette [0x0000, 0xF801] (texture 1 1 [1])))).surf = [(0, ⟨248, 0, 0, 255⟩)] := by
  decide +kernel

/-- R112. -/
theorem test_planeEncodeRgba32 :
    (after (exec .planeEncodeRgba32 (picture 1 1 [⟨1, 2, 3, 4⟩]))).raw = cells [1, 2, 3, 4] := by decide

/-- R113. -/
theorem test_planeEncodeRgba16 :
    (after (exec .planeEncodeRgba16 (picture 1 1 [⟨200, 100, 50, 255⟩]))).raw = cells [0xCB, 0x0D] := by decide

/-- R114. -/
theorem test_planeEncodeI4 :
    (after (exec .planeEncodeI4 (picture 2 1 [⟨0xAB, 1, 2, 3⟩, ⟨0xCD, 4, 5, 6⟩]))).raw = cells [0xAC] := by decide

/-- R115; P = W*H is the new RAW_LEN. -/
theorem test_planeEncodeI8 :
    let t := after (exec .planeEncodeI8 (picture 1 1 [⟨0x7F, 0, 0, 0⟩]))
    t.raw = cells [0x7F] ∧ t.rawLen = 1 := by decide

/-- R116: the threshold is "at least 128". -/
theorem test_planeEncodeIa4 :
    (after (exec .planeEncodeIa4 (picture 2 1 [⟨224, 0, 0, 128⟩, ⟨31, 0, 0, 127⟩]))).raw = cells [0xF0] := by decide

/-- R117. -/
theorem test_planeEncodeIa8 :
    (after (exec .planeEncodeIa8 (picture 1 1 [⟨0x5A, 0, 0, 0xE7⟩]))).raw = cells [0x5E] := by decide

/-- R118. -/
theorem test_planeEncodeIa16 :
    (after (exec .planeEncodeIa16 (picture 1 1 [⟨0x12, 0x99, 0x99, 0x34⟩]))).raw = cells [0x12, 0x34] := by decide

/-- R119. -/
theorem test_planeEncodeCi4 :
    let t := after (exec .planeEncodeCi4 (picture 2 1 redBlue))
    t.raw = cells [0x01] ∧ palEntry t.pal 0 = 0xF801 ∧ palEntry t.pal 1 = 0x003F ∧ t.palCount = 2 := by decide +kernel

/-- R111: a color already in PAL keeps its index. -/
theorem test_planeEncodeCi4_reuses :
    (after (exec .planeEncodeCi4 (withPalette [0x003F] (picture 2 1 redBlue)))).raw = cells [0x10] := by decide +kernel

/-- R120. -/
theorem test_planeEncodeCi8 :
    let t := after (exec .planeEncodeCi8 (picture 2 1 [⟨0, 0, 0, 0⟩, ⟨255, 255, 255, 255⟩]))
    t.raw = cells [0, 1] ∧ palEntry t.pal 0 = 0 ∧ palEntry t.pal 1 = 0xFFFF ∧ t.palCount = 2 := by decide +kernel

/-- R140. -/
theorem test_palBuild :
    let t := after (exec (.palBuild 7)
      (picture 2 2 [⟨248, 0, 0, 255⟩, ⟨0, 0, 0, 0⟩, ⟨248, 0, 0, 255⟩, ⟨0, 248, 0, 255⟩]))
    palPrefix t.pal 4 = [0xF801, 0x0000, 0x07C1, 0] ∧ t.palCount = 3 := by decide +kernel

/-- The palette bytes of the examples of R141 and R142. -/
def threeColors : List Byte := [0xF8, 0x01, 0x00, 0x3F, 0x07, 0xC1] ++ List.replicate 26 0

/-- R141, head form; the bytes beyond the new RAW_LEN keep their values. -/
theorem test_palRead_head :
    let t := after (exec (.palRead 7) { texture 1 1 (threeColors ++ [1]) with palAtStart := true })
    palPrefix t.pal 4 = [0xF801, 0x003F, 0x07C1, 0] ∧ t.palCount = 16 ∧ t.rawLen = 1 ∧ t.raw.read 0 = some 1 ∧
      t.raw.read 1 = some 0x01 := by decide +kernel

/-- R142, tail form. -/
theorem test_palWrite_tail :
    let t := after (exec (.palWrite 7) (withPalette [0xF801, 0x003F, 0x07C1] (texture 1 1 [1])))
    t.raw = cells ([1] ++ threeColors) ∧ t.rawLen = 33 := by decide +kernel

/-- The bytes of the examples of R151, R160 and R161. -/
def swizzled : List Byte := [0, 1, 2, 3, 4, 5, 6, 7, 12, 13, 14, 15, 8, 9, 10, 11]

/-- R151. -/
theorem test_swizzle :
    let t := after (exec (.swizzle 3) (texture 8 2 [0, 1, 2, 3, 4, 5, 6, 7, 8, 9, 10, 11, 12, 13, 14, 15]))
    t.raw = cells swizzled ∧ t.rawLen = 16 := by decide +kernel

/-- R151, R153: a 13-byte odd row loses its 5 bytes beyond the whole chunk. -/
theorem test_swizzle_drops :
    (after (exec (.swizzle 3) (texture 13 2 (List.replicate 26 7)))).rawLen = 21 := by decide +kernel

/-- R160. -/
theorem test_decode :
    (after (exec (.decode 3) (texture 8 2 swizzled))).surf =
      cells ((List.range 16).map fun k => ⟨BitVec.ofNat 8 k, BitVec.ofNat 8 k, BitVec.ofNat 8 k, 255⟩) := by
  decide +kernel

/-- R160 with a palette at the head: its entries, then the plane's indices. -/
theorem test_decode_indexed :
    let t := after (exec (.decode 7) { texture 2 1 (threeColors ++ [0x12]) with palAtStart := true, swzEn := false })
    t.surf = [(0, ⟨0, 0, 248, 255⟩), (1, ⟨0, 248, 0, 255⟩)] ∧ t.palCount = 16 ∧ t.rawLen = 33 := by decide +kernel

/-- R161. -/
theorem test_encode :
    let t := after (exec (.encode 3)
      (picture 8 2 ((List.range 16).map fun k => ⟨BitVec.ofNat 8 k, BitVec.ofNat 8 k, BitVec.ofNat 8 k, 255⟩)))
    t.raw = cells swizzled ∧ t.rawLen = 16 := by decide +kernel

/-- R161 with a palette at the tail: the plane, then 16 entries. -/
theorem test_encode_indexed :
    let t := after (exec (.encode 7) (picture 2 1 redBlue))
    t.raw = cells ([0x01, 0xF8, 0x01, 0x00, 0x3F] ++ List.replicate 28 0) ∧ t.rawLen = 33 ∧ t.palCount = 2 := by
  decide +kernel

/-! ### The step -/

/-- The first step after reset runs the word placed for it (30_encoding.md R68, 40_bitpack.md R82). -/
theorem test_step_runs_fetched_word :
    (after (step ({ State.reset with word := 0xF83F }.withFetchWord 32 0x40))).pixel = ⟨248, 0, 248, 255⟩ := by decide

/-- A read returns its datum and changes nothing else; CTRL resets to 1 (10_state.md R22). -/
theorem test_step_reads_ctrl :
    step { start with pending := [eventRd .ctrl] } = .next { start with response := some (.word 1) } := rfl

/-- An illegal command word changes only STATUS.ERR (60_exceptions.md R183). -/
theorem test_illegal_command : issue 0x1001 start = .next { start with err := 6 } := rfl

/-! ### Witnesses: encoding, host and errors -/

/-- A word for each clause of IssueFollowsTheDecodingSteps. -/
theorem test_witness_IssueFollowsTheDecodingSteps :
    rsvField 0x00001000 ≠ 0 ∧ rsvField 0x80000000 ≠ 0 ∧
    (rsvField 0x03 = 0 ∧ opField 0x03 ∉ [0x00, 0x01, 0x02, 0x10, 0x11, 0x20, 0x21, 0x22, 0x30, 0x40, 0x41]) ∧
    (rsvField 0xF41 = 0 ∧ opField 0xF41 ∈ [0x00, 0x40, 0x41] ∧ rsvField 0x41 = 0 ∧ opField 0x41 = opField 0xF41) ∧
    (rsvField 0x901 = 0 ∧ opField 0x901 ∈ [0x01, 0x02, 0x10, 0x11, 0x20, 0x21, 0x22, 0x30] ∧
      8 < (fmtField 0x901).toNat) ∧
    (rsvField 0x620 = 0 ∧ (fmtField 0x620).toNat ≤ 8 ∧ opField 0x620 ∈ [0x20, 0x21, 0x22] ∧
      (fmtField 0x620).toNat < 7) ∧
    (rsvField 0x720 = 0 ∧ opField 0x720 ∈ [0x01, 0x02, 0x10, 0x11, 0x20, 0x21, 0x22, 0x30] ∧
      (fmtField 0x720).toNat ≤ 8 ∧ 7 ≤ (fmtField 0x720).toNat) ∧
    (rsvField 0x801 = 0 ∧ (fmtField 0x801).toNat ≤ 8 ∧ opField 0x801 ∉ [0x20, 0x21, 0x22]) := by decide

/-- Each case of StepRunsTheDecodedCommand. -/
theorem test_witness_StepRunsTheDecodedCommand :
    start.pending = [] ∧
    ({ start with pending := [.writeReg 0x0C 0x701, .readReg 0x10] } : State).pending =
      .writeReg 0x0C 0x701 :: [.readReg 0x10] ∧
    ({ start with pending := [.writeRaw 63 7] } : State).pending = .writeRaw 63 7 :: [] ∧
    (after (step { start with pending := [.writeRaw 63 7] })).raw = [(63, 7)] ∧
    decode 0x701 = .ok (.decode 7) ∧ decode 0x1701 = .error .illegalCommand ∧ decode 0x910 = .error .unsupportedFormat := by
  decide

/-- Offsets of each kind that RegisterReadsBackWhatWasWritten ranges over. -/
theorem test_witness_RegisterReadsBackWhatWasWritten :
    (0x00 : Nat) ≠ 0x0C ∧ (0x10 : Nat) ≠ 0x0C ∧ (0x20 : Nat) ≠ 0x0C ∧ (0x04 : Nat) ≠ 0x00 ∧
    (after (perform (.writeReg 0x00 0xFFFFFFFF) start)).hostReadReg 0x00 = 3 ∧
    (after (perform (.writeReg 0x10 0xFFFFFFFF) start)).hostReadReg 0x10 = 0 := by decide

/-- The least reserved offset above the map, and a misaligned one inside it. -/
theorem test_witness_ReservedOffsetsReadZeroAndIgnoreWrites :
    ((0x24 ≤ 0x24 ∨ 0x24 % 4 ≠ 0) ∧ (0x24 ≤ 0x21 ∨ 0x21 % 4 ≠ 0)) ∧
    perform (.writeReg 0x21 0xFFFFFFFF) start = .next start := ⟨by decide, rfl⟩

/-- The last byte of RAW and the first index beyond it. -/
theorem test_witness_HostAccessToRaw :
    63 < start.rawCap ∧ start.rawCap ≤ 64 ∧ (62 : Nat) ≠ 63 ∧
    (after (perform (.writeRaw 63 7) start)).raw.read 63 = some 7 ∧ (after (perform (.writeRaw 64 7) start)).raw = [] := by
  decide

/-- The last pixel of SURF and the first index beyond it. -/
theorem test_witness_HostAccessToSurf :
    63 < start.surfCap ∧ start.surfCap ≤ 64 ∧ (62 : Nat) ≠ 63 ∧
    (after (perform (.writeSurf 63 ⟨1, 2, 3, 4⟩) start)).surf.read 63 = some ⟨1, 2, 3, 4⟩ := by decide

/-- The last entry of PAL and the first index beyond it. -/
theorem test_witness_HostAccessToPal :
    (255 < 256 ∧ 256 ≤ 256 ∧ (254 : Nat) ≠ 255) ∧
    palEntry (after (perform (.writePal 255 7) start)).pal 255 = 7 := by decide +kernel

/-- A reset input and a loss of power pending. -/
theorem test_witness_ResetInputKeepsRawAndSurf :
    ({ texture 1 1 [9] with pending := [.assertReset] } : State).pending = .assertReset :: [] ∧
    (after (step { texture 1 1 [9] with pending := [.assertReset] })).raw.read 0 = some 9 ∧
    ({ start with pending := [.losePower] } : State).pending = .losePower :: [] := by decide

/-- The greatest two-byte value, both its bytes, and the addresses next to them. -/
theorem test_witness_MultiByteAccessIsBigEndian :
    (65534 < 256 ^ 2 ∧ 65535 < 256 ^ 2 ∧ 0 < 2 ∧ 1 < 2 ∧ ((9 : Nat) < 10 ∨ 10 + 2 ≤ 9) ∧ ((12 : Nat) < 10 ∨ 10 + 2 ≤ 12)) ∧
    (start.memWrite 10 2 0x1234).raw = [(10, 0x12), (11, 0x34)] ∧ bytesOfWord 0x1234 = [0x12, 0x34] ∧
    wordOfBytes 0x12 0x34 = 0x1234 := by decide

/-- A command that fails, and one that does not. -/
theorem test_witness_FailedCommandChangesOnlyTheErrorCode :
    (after (issue 0x05 start)).err ≠ 0 ∧ (after (issue 0x901 start)).err ≠ 0 ∧ (after (issue 0x00 start)).err = 0 := by
  decide

/-- A word of an assigned operation, with its next state. -/
theorem test_witness_CommandsLeaveOnlyTheirOwnErrorCodes :
    rsvField 0x721 = 0 ∧ opField 0x721 = Op.code .palRead ∧ issue 0x721 start = .next { start with err := 5 } :=
  ⟨by decide, by decide, rfl⟩

/-- An UNPACK5551 word with a reserved bit set. -/
theorem test_witness_Unpack5551SplitsTheWord : opField 0x1040 = 0x40 ∧ rsvField 0x1040 ≠ 0 := by decide

/-- A PACK5551 word with a reserved bit set. -/
theorem test_witness_Pack5551KeepsTheTopBits : opField 0x1041 = 0x41 ∧ rsvField 0x1041 ≠ 0 := by decide

/-- A NOP word with a reserved bit set. -/
theorem test_witness_NopOnlyClearsTheErrorCode : opField 0x1000 = 0x00 ∧ rsvField 0x1000 ≠ 0 := by decide

/-- Two names of one word that unpack alike. -/
theorem test_witness_WordRoundTripIsExact : unpack5551 0x8001 = unpack5551 (0x8000 + 1) := by decide

/-- Alpha at each side of the threshold. -/
theorem test_witness_PixelRoundTripLosesTheLowBits : (128 : Byte).toNat ≤ 128 ∧ 128 < (129 : Byte).toNat := by decide

/-! ### Witnesses: plane decode and plane encode -/

/-- A 2×1 plane of exactly its size, in an instance of exactly that capacity. -/
def exactPlane (bpp : Nat) : State :=
  withCaps (2 * bpp / 8) 2 (texture 2 1 (List.replicate (2 * bpp / 8) 0x11))

/-- A state for each clause of planeDecodeMeets: just fitting; one byte short; RAW one byte too small; SURF one pixel
too small; and, at 4 bpp, a width of 3. STATUS.ERR is the one the clause says. -/
def planeDecodeWitness (i : Instr) (bpp : Nat) : Bool :=
  let fit := exactPlane bpp
  let short := withLength (2 * bpp / 8 - 1) fit
  let smallRaw := withCaps (2 * bpp / 8 - 1) 2 fit
  let smallSurf := withCaps (2 * bpp / 8) 1 fit
  let odd := texture 3 1 []
  decide (¬ oddPair bpp fit ∧ ¬ overCapacity fit ∧ planeSize bpp fit ≤ fit.rawLength ∧ 0 < fit.imgPixels) &&
  decide (¬ oddPair bpp short ∧ ¬ overCapacity short ∧ short.rawLength < planeSize bpp short) &&
  decide (¬ oddPair bpp smallRaw ∧ overCapacity smallRaw ∧ ¬ oddPair bpp smallSurf ∧ overCapacity smallSurf) &&
  decide (bpp = 4 → oddPair bpp odd ∧ errOf i odd = some 4) &&
  decide (errOf i fit = some 0 ∧ errOf i short = some 2 ∧ errOf i smallRaw = some 7 ∧ errOf i smallSurf = some 7)

theorem test_witness_PlaneDecodeRgba32CopiesFourBytes : planeDecodeWitness .planeDecodeRgba32 32 = true := by decide +kernel
theorem test_witness_PlaneDecodeRgba16UnpacksBigEndianWords : planeDecodeWitness .planeDecodeRgba16 16 = true := by decide +kernel
theorem test_witness_PlaneDecodeI4PlacesTheNibbleHigh : planeDecodeWitness .planeDecodeI4 4 = true := by decide +kernel
theorem test_witness_PlaneDecodeI8CopiesTheIntensity : planeDecodeWitness .planeDecodeI8 8 = true := by decide +kernel
theorem test_witness_PlaneDecodeIa4ReadsIntensityAndAlphaBit : planeDecodeWitness .planeDecodeIa4 4 = true := by decide +kernel
theorem test_witness_PlaneDecodeIa8SplitsTheByte : planeDecodeWitness .planeDecodeIa8 8 = true := by decide +kernel
theorem test_witness_PlaneDecodeIa16CopiesIntensityAndAlpha : planeDecodeWitness .planeDecodeIa16 16 = true := by decide +kernel
theorem test_witness_PlaneDecodeCi4LooksUpTheNibble : planeDecodeWitness .planeDecodeCi4 4 = true := by decide +kernel
theorem test_witness_PlaneDecodeCi8LooksUpTheByte : planeDecodeWitness .planeDecodeCi8 8 = true := by decide +kernel

/-- A state for each clause of planeEncodeMeets: just fitting; SURF one pixel too small; RAW one byte too small; and,
at 4 bpp, a width of 3. -/
def planeEncodeWitness (i : Instr) (bpp : Nat) : Bool :=
  let fit := withCaps (2 * bpp / 8) 2 (picture 2 1 redBlue)
  let smallRaw := withCaps (2 * bpp / 8 - 1) 2 fit
  let smallSurf := withCaps (2 * bpp / 8) 1 fit
  let odd := picture 3 1 []
  decide (¬ oddPair bpp fit ∧ fit.imgPixels ≤ fit.surfCap ∧ planeSize bpp fit ≤ fit.rawCap ∧ 0 < planeSize bpp fit) &&
  decide (¬ oddPair bpp smallSurf ∧ smallSurf.surfCap < smallSurf.imgPixels) &&
  decide (¬ oddPair bpp smallRaw ∧ smallRaw.imgPixels ≤ smallRaw.surfCap ∧ smallRaw.rawCap < planeSize bpp smallRaw) &&
  decide (bpp = 4 → oddPair bpp odd ∧ errOf i odd = some 4) &&
  decide (errOf i fit = some 0 ∧ errOf i smallRaw = some 7 ∧ errOf i smallSurf = some 7)

theorem test_witness_PlaneEncodeRgba32WritesFourBytes : planeEncodeWitness .planeEncodeRgba32 32 = true := by decide +kernel
theorem test_witness_PlaneEncodeRgba16WritesBigEndianWords : planeEncodeWitness .planeEncodeRgba16 16 = true := by decide +kernel
theorem test_witness_PlaneEncodeI4PacksTheTopNibblesOfRed : planeEncodeWitness .planeEncodeI4 4 = true := by decide +kernel
theorem test_witness_PlaneEncodeI8WritesRed : planeEncodeWitness .planeEncodeI8 8 = true := by decide +kernel
theorem test_witness_PlaneEncodeIa4PacksIntensityAndAlphaBit : planeEncodeWitness .planeEncodeIa4 4 = true := by decide +kernel
theorem test_witness_PlaneEncodeIa8CombinesTheTopNibbles : planeEncodeWitness .planeEncodeIa8 8 = true := by decide +kernel
theorem test_witness_PlaneEncodeIa16WritesRedAndAlpha : planeEncodeWitness .planeEncodeIa16 16 = true := by decide +kernel

/-- paletteExtend fails with PaletteOverflow. -/
def overflows (pal : Palette) (n : Nat) (px : List Pixel) (cap : Nat) : Bool :=
  match paletteExtend pal n px cap with
  | .error .paletteOverflow => true
  | _ => false

/-- paletteExtend succeeds. -/
def extends_ (pal : Palette) (n : Nat) (px : List Pixel) (cap : Nat) : Bool :=
  match paletteExtend pal n px cap with
  | .ok _ => true
  | .error _ => false

/-- A state for each clause of planeEncodeIndexedMeets that the helper above does not show: a stored palette one entry
too long; one that the image makes one entry too long; and one that the image just fills, also with RAW too small. -/
def planeEncodeIndexedWitness (i : Instr) (bpp cap : Nat) : Bool :=
  let s := picture 2 1 redBlue
  let tooLong := { s with palCount := BitVec.ofNat 9 (cap + 1) }
  let full := { s with palCount := BitVec.ofNat 9 (cap - 1) }
  let fills := { s with palCount := BitVec.ofNat 9 (cap - 2) }
  let fillsSmallRaw := withCaps (2 * bpp / 8 - 1) 64 fills
  overflows tooLong.pal tooLong.paletteCount tooLong.image cap && decide (errOf i tooLong = some 3) &&
  overflows full.pal full.paletteCount full.image cap && decide (errOf i full = some 3) &&
  extends_ fills.pal fills.paletteCount fills.image cap && decide (errOf i fills = some 0) &&
  decide (fillsSmallRaw.rawCap < planeSize bpp fillsSmallRaw ∧ errOf i fillsSmallRaw = some 7) &&
  planeEncodeWitness i bpp

theorem test_witness_PlaneEncodeCi4PacksTheIndices : planeEncodeIndexedWitness .planeEncodeCi4 4 16 = true := by decide +kernel
theorem test_witness_PlaneEncodeCi8WritesTheIndices : planeEncodeIndexedWitness .planeEncodeCi8 8 256 = true := by
  decide +kernel

/-! ### Witnesses: palette, swizzle and whole textures -/

/-- A count above the capacity; a count the image takes one past it; one it just fills; and an image pixel. -/
theorem test_witness_PaletteExtendAppendsNewColorsInOrder :
    (16 : Nat) < 17 ∧ 16 < 15 + (newColors palZero 15 redBlue).length ∧
    14 + (newColors palZero 14 redBlue).length ≤ 16 ∧ 0 < (newColors palZero 14 redBlue).length ∧
    overflows palZero 17 redBlue 16 = true ∧ overflows palZero 15 redBlue 16 = true ∧
    extends_ palZero 14 redBlue 16 = true ∧ (⟨248, 0, 0, 255⟩ : Pixel) ∈ redBlue := by decide +kernel

/-- Format codes at each side of the indexed ones; SURF too small; 17 colors for 16 entries; and 16. -/
theorem test_witness_PalBuildListsTheDistinctColors :
    ((6 : FmtCode).toNat < 7 ∧ 8 < (9 : FmtCode).toNat) ∧
    (withCaps 64 16 (picture 17 1 [])).surfCap < (withCaps 64 16 (picture 17 1 [])).imgPixels ∧
    (CIFormat.cap .ci4 < (picture 17 1 (manyColors 17)).distinctColors.length ∧
      errOf (.palBuild 7) (picture 17 1 (manyColors 17)) = some 3) ∧
    ((picture 16 1 (manyColors 16)).imgPixels ≤ (picture 16 1 (manyColors 16)).surfCap ∧
      (picture 16 1 (manyColors 16)).distinctColors.length ≤ CIFormat.cap .ci4 ∧
      errOf (.palBuild 7) (picture 16 1 (manyColors 16)) = some 0) := by decide +kernel

/-- A length one past RAW; one byte short of the palette; exactly the palette. -/
theorem test_witness_PalReadLoadsAndRemovesThePalette :
    ((6 : FmtCode).toNat < 7 ∧ 8 < (9 : FmtCode).toNat) ∧
    ((withLength 65 start).rawCap < (withLength 65 start).rawLength ∧ errOf (.palRead 7) (withLength 65 start) = some 7) ∧
    ((texture 1 1 (List.replicate 31 0)).rawLength < 2 * CIFormat.cap .ci4 ∧
      errOf (.palRead 7) (texture 1 1 (List.replicate 31 0)) = some 5) ∧
    ((texture 1 1 threeColors).rawLength ≤ (texture 1 1 threeColors).rawCap ∧
      2 * CIFormat.cap .ci4 ≤ (texture 1 1 threeColors).rawLength ∧
      errOf (.palRead 7) (texture 1 1 threeColors) = some 0) := by decide +kernel

/-- A length one past RAW; 17 entries for 16; a result one byte too long; one that just fits. -/
theorem test_witness_PalWriteAttachesThePaddedPalette :
    (withLength 65 start).rawCap < (withLength 65 start).rawLength ∧
    (CIFormat.cap .ci4 < ({ start with palCount := 17 } : State).paletteCount ∧
      errOf (.palWrite 7) { start with palCount := 17 } = some 3) ∧
    ((texture 1 1 (List.replicate 33 0)).rawCap < (texture 1 1 (List.replicate 33 0)).rawLength + 2 * CIFormat.cap .ci4 ∧
      errOf (.palWrite 7) (texture 1 1 (List.replicate 33 0)) = some 7) ∧
    (({ texture 1 1 threeColors with palCount := 16 } : State).paletteCount ≤ CIFormat.cap .ci4 ∧
      (texture 1 1 threeColors).rawLength + 2 * CIFormat.cap .ci4 ≤ (texture 1 1 threeColors).rawCap ∧
      errOf (.palWrite 7) { texture 1 1 threeColors with palCount := 16 } = some 0) := by decide +kernel

/-- A PAL_BUILD and a PAL_WRITE that complete, and an image of exactly 16 colors. -/
theorem test_witness_PaletteCommandLaws :
    (errOf (.palBuild (CIFormat.code .ci4)) (picture 2 1 redBlue) = some 0 ∧
      (⟨248, 0, 0, 255⟩ : Pixel) ∈ (picture 2 1 redBlue).image) ∧
    (errOf (.palWrite (CIFormat.code .ci4)) (withPalette [0xF801] (texture 1 1 [1])) = some 0 ∧
      (withPalette [0xF801] (texture 1 1 [1])).rawLength + 2 * CIFormat.cap .ci4 < 2 ^ 32) ∧
    (picture 16 1 (manyColors 16)).distinctColors.length ≤ CIFormat.cap .ci4 := by decide +kernel

/-- SWIZZLE disabled; enabled with an odd width, a length past RAW, a plane one byte short, and a plane just fitting. -/
theorem test_witness_SwizzleTransformsRawInPlace :
    8 < (9 : FmtCode).toNat ∧
    ({ start with swzEn := false } : State).swzEn = false ∧
    (start.swzEn = true ∧ oddPair (Format.bpp .i4) (texture 3 1 [])) ∧
    (¬ oddPair (Format.bpp .i8) (withLength 65 start) ∧ (withLength 65 start).rawCap < (withLength 65 start).rawLength) ∧
    ((texture 8 1 [1, 2, 3, 4, 5, 6, 7]).rawLength < planeSize (Format.bpp .i8) (texture 8 1 [1, 2, 3, 4, 5, 6, 7]) ∧
      errOf (.swizzle 3) (texture 8 1 [1, 2, 3, 4, 5, 6, 7]) = some 2) ∧
    (planeSize (Format.bpp .i8) (texture 8 2 swizzled) ≤ (texture 8 2 swizzled).rawLength ∧
      (texture 8 2 swizzled).rawLength ≤ (texture 8 2 swizzled).rawCap ∧
      errOf (.swizzle 3) (texture 8 2 swizzled) = some 0) := by decide +kernel

/-- An input of exactly the plane's size, with an even row, a whole odd row, and an odd row of 13 bytes. -/
theorem test_witness_SwizzleOutputLengthAndBytes :
    2 * bytesPerRow (Format.bpp .i8) 8 ≤ swizzled.length ∧
    2 * bytesPerRow (Format.bpp .i8) 13 ≤ (List.replicate 26 (7 : Byte)).length ∧
    (0 < 2 ∧ 12 < 13) ∧ (1 < 2 ∧ 7 < 13 - 13 % 8) := by decide

/-- A clean geometry; and one that is not, whose SWIZZLE completes. -/
theorem test_witness_SwizzleIsAnInvolutionWhenChunkClean :
    (2 * bytesPerRow (Format.bpp .i8) 8 ≤ swizzled.length ∧ chunkClean (Format.bpp .i8) 8 2 = true) ∧
    ((texture 13 2 (List.replicate 26 7)).swzEn = true ∧ chunkClean (Format.bpp .i8) 13 2 = false ∧
      errOf (.swizzle (Format.code .i8)) (texture 13 2 (List.replicate 26 7)) = some 0) := by decide +kernel

/-- An even width at 4 bpp; and a geometry that is not clean. -/
theorem test_witness_OnlyChunkCleanGeometriesDecode :
    (Format.bpp .i4 = 4 → 16 % 2 = 0) ∧ start.swzEn = true ∧
    ¬ oddPair (Format.bpp .i8) (texture 13 2 (List.replicate 26 7)) ∧ ¬ overCapacity (texture 13 2 (List.replicate 26 7)) ∧
    chunkClean (Format.bpp .i8) (texture 13 2 (List.replicate 26 7)).imgWidth 2 = false ∧
    errOf (.decode 3) (texture 13 2 (List.replicate 26 7)) = some 2 ∧
    errOf (.decode 7) (texture 18 2 (List.replicate 31 7)) = some 5 := by decide +kernel

/-- A state for each clause of DecodeOfUnindexedFormats. -/
theorem test_witness_DecodeOfUnindexedFormats :
    8 < (9 : FmtCode).toNat ∧ Format.ci? .i8 = none ∧
    oddPair (Format.bpp .i4) (texture 3 1 []) ∧
    (¬ oddPair (Format.bpp .i8) (withLength 65 start) ∧ overCapacity (withLength 65 start)) ∧
    ((texture 8 2 (List.replicate 15 1)).rawLength < planeSize (Format.bpp .i8) (texture 8 2 (List.replicate 15 1))) ∧
    (chunkClean (Format.bpp .i8) 13 2 = false ∧
      planeSize (Format.bpp .i8) (texture 13 2 (List.replicate 26 7)) ≤ (texture 13 2 (List.replicate 26 7)).rawLength) ∧
    (¬ overCapacity (texture 8 2 swizzled) ∧ chunkClean (Format.bpp .i8) 8 2 = true ∧
      planeSize (Format.bpp .i8) (texture 8 2 swizzled) ≤ (texture 8 2 swizzled).rawLength) := by decide +kernel

/-- A 2×2 CI4 texture, one byte of plane a row, in an instance that just holds it. -/
def indexedTexture : State := withCaps 34 4 { texture 2 2 (threeColors ++ [0x01, 0x12]) with palAtStart := true }

/-- A state for each clause of DecodeOfIndexedFormats. -/
theorem test_witness_DecodeOfIndexedFormats :
    oddPair (Format.bpp .ci4) (texture 3 1 []) ∧ overCapacity (withLength 65 start) ∧
    (¬ oddPair (Format.bpp .ci4) (withLength 31 indexedTexture) ∧
      (withLength 31 indexedTexture).rawLength < 2 * CIFormat.cap .ci4) ∧
    (2 * CIFormat.cap .ci4 ≤ (withLength 33 indexedTexture).rawLength ∧
      (withLength 33 indexedTexture).rawLength < 2 * CIFormat.cap .ci4 + planeSize 4 (withLength 33 indexedTexture)) ∧
    (¬ overCapacity indexedTexture ∧ 2 * CIFormat.cap .ci4 + planeSize 4 indexedTexture ≤ indexedTexture.rawLength ∧
      indexedTexture.swzEn = true ∧ chunkClean 4 2 2 = false ∧ errOf (.decode 7) indexedTexture = some 2) ∧
    errOf (.decode 7) { indexedTexture with swzEn := false } = some 0 := by decide +kernel

/-- A state for each clause of EncodeOfUnindexedFormats: the output of 16 bytes in a RAW of 15 and of 16. -/
theorem test_witness_EncodeOfUnindexedFormats :
    Format.ci? .i8 = none ∧ oddPair (Format.bpp .i4) (picture 3 1 []) ∧
    ((withCaps 64 15 (picture 8 2 [])).surfCap < (withCaps 64 15 (picture 8 2 [])).imgPixels) ∧
    errOf (.encode 3) (withCaps 15 16 (picture 8 2 (manyColors 16))) = some 7 ∧
    errOf (.encode 3) (withCaps 16 16 (picture 8 2 (manyColors 16))) = some 0 := by decide +kernel

/-- A state for each clause of EncodeOfIndexedFormats: 17 colors, and 16 in a RAW of 39 and of 40 bytes. -/
theorem test_witness_EncodeOfIndexedFormats :
    oddPair (Format.bpp .ci4) (picture 3 1 []) ∧
    ((withCaps 64 15 (picture 16 1 [])).surfCap < (withCaps 64 15 (picture 16 1 [])).imgPixels) ∧
    (CIFormat.cap .ci4 < (picture 18 1 (manyColors 18)).distinctColors.length ∧
      errOf (.encode 7) (picture 18 1 (manyColors 18)) = some 3) ∧
    ((picture 16 1 (manyColors 16)).distinctColors.length ≤ CIFormat.cap .ci4 ∧
      errOf (.encode 7) (withCaps 39 16 (picture 16 1 (manyColors 16))) = some 7 ∧
      errOf (.encode 7) (withCaps 40 16 (picture 16 1 (manyColors 16))) = some 0) := by decide +kernel

/-- A DECODE of each kind that completes. -/
theorem test_witness_DecodeIsTheCompositionOfItsParts :
    Format.ci? .i8 = none ∧ errOf (.decode (Format.code .i8)) (texture 8 2 swizzled) = some 0 ∧
    errOf (.decode (CIFormat.code .ci4)) { indexedTexture with swzEn := false } = some 0 := by decide +kernel

/-- An image whose ENCODE, and every command of the sequence, completes. -/
def smallImage : State := picture 2 1 redBlue

/-- An ENCODE of each kind that completes, with every command of its sequence. -/
theorem test_witness_EncodeIsTheCompositionOfItsParts :
    (smallImage.rawCap < 2 ^ 32 ∧ Format.ci? .i8 = none) ∧
    (let a := after (exec .planeEncodeI8 smallImage)
    let b := after (exec (.swizzle (Format.code .i8)) a)
    errOf (.encode (Format.code .i8)) smallImage = some 0 ∧ a.err = 0 ∧ b.err = 0) ∧
    (let z := after (exec (.palBuild (CIFormat.code .ci4)) smallImage)
    let a := after (exec .planeEncodeCi4 z)
    let b := after (exec (.swizzle (CIFormat.code .ci4)) a)
    let d := after (exec (.palWrite (CIFormat.code .ci4)) b)
    errOf (.encode (CIFormat.code .ci4)) smallImage = some 0 ∧ z.err = 0 ∧ a.err = 0 ∧ b.err = 0 ∧ d.err = 0) := by
  decide +kernel

/-- An even number of pixels at 4 bpp, and a palette that takes them. -/
theorem test_witness_PlaneCodecRoundTrip :
    (Format.bpp .ci4 = 4 → redBlue.length % 2 = 0) ∧ extends_ palZero 0 redBlue (CIFormat.cap .ci4) = true := by
  decide +kernel

/-- A clean geometry and one that is not, each with an ENCODE that completes; the state after it is the second one. -/
theorem test_witness_WholeTextureRoundTrip :
    (smallImage.rawCap < 2 ^ 32 ∧ errOf (.encode (Format.code .ci4)) smallImage = some 0 ∧ chunkClean 4 2 1 = true) ∧
    (errOf (.encode (Format.code .i8)) (picture 13 2 (List.replicate 26 ⟨7, 7, 7, 7⟩)) = some 0 ∧
      start.swzEn = true ∧ chunkClean 8 13 2 = false) := by decide +kernel

/-! ### Witnesses: the whole machine -/

/-- A command of each kind with a next state. -/
theorem test_witness_CommandsWriteOnlyTheirOwnState :
    errOf (.encode 7) smallImage = some 0 ∧ errOf (.palBuild 7) smallImage = some 0 ∧ errOf .planeDecodeI8 start = some 0 ∧
    errOf (.pack5551 0) start = some 0 ∧ errOf (.unpack5551 0) start = some 0 ∧ errOf (.decode 9) start = some 1 := by
  decide +kernel

/-- A legal state with a command pending, whose step has a next state. -/
theorem test_witness_EveryStepKeepsTheStateLegal :
    ({ smallImage with pending := [.writeReg 0x0C 0x702] } : State).inv = true ∧
    ({ smallImage with pending := [.writeReg 0x0C 0x702] } : State).pending.head? ≠ some .losePower ∧
    (after (step { smallImage with pending := [.writeReg 0x0C 0x702] })).rawLen = 33 := by decide +kernel

/-- Two states that differ in a byte at RAW_LEN, and agree below it. -/
theorem test_witness_BytesBeyondRawLenAreNeverRead :
    sameTexture (texture 1 1 [5]) { texture 1 1 [5] with raw := [(0, 5), (1, 9)] } ∧
    errOf .planeDecodeI8 (texture 1 1 [5]) = some 0 := by
  refine ⟨⟨rfl, ?_⟩, by decide⟩
  intro a ha
  have h0 : a = 0 := Nat.lt_one_iff.mp ha
  subst h0
  rfl

/-- An ENCODE with a next state, completed and not. -/
theorem test_witness_EncodeIgnoresTheStoredPalette :
    errOf (.encode (Format.code .ci4)) smallImage = some 0 ∧ errOf (.encode (Format.code .i4)) (picture 3 1 []) = some 4 := by
  decide +kernel

end Sys2Proof.Tests
end

/-! O13: MemRead and MemWrite are big-endian (00_scope.md R12, 20_memory.md R43, R47). MemWrite stores the
base-256 digits of the value; MemRead's sum is taken apart at the last byte, the least significant one, so that
`memRead_succ` is the Horner step that puts the digits together again. -/

namespace Sys2Proof.Machine

open Sys2Proof

/-! ### The bytes MemWrite stores -/

/-- The n bytes of a number, most significant first. -/
def bigEndianBytes (n v : Nat) : List Byte := (List.range n).map fun j => BitVec.ofNat 8 (v >>> (8 * (n - 1 - j)))

theorem State.memWrite_eq (s : State) (a n v : Nat) :
    s.memWrite a n v = { s with raw := s.raw.writeAll a (bigEndianBytes n v) } := rfl

@[simp] theorem bigEndianBytes_length (n v : Nat) : (bigEndianBytes n v).length = n := by
  simp [bigEndianBytes]

theorem bigEndianBytes_getElem? {n j : Nat} (v : Nat) (hj : j < n) :
    (bigEndianBytes n v)[j]? = some (BitVec.ofNat 8 (v / 256 ^ (n - 1 - j))) := by
  have hpow : 2 ^ (8 * (n - 1 - j)) = 256 ^ (n - 1 - j) := Nat.pow_mul 2 8 _
  simp [bigEndianBytes, hj, Nat.shiftRight_eq_div_pow, hpow]

/-- The bytes of a 16-bit word are those the commands make of it (R47). -/
theorem bigEndianBytes_two (w : Word16) : bigEndianBytes 2 w.toNat = bytesOfWord w := rfl

/-! ### RAW after MemWrite -/

theorem State.read_memWrite_outside (s : State) {a n b : Nat} (v : Nat) (hb : b < a ∨ a + n ≤ b) :
    (s.memWrite a n v).raw.read b = s.raw.read b := by
  simp only [State.memWrite_eq, Memory.read_writeAll, bigEndianBytes_length]
  rw [if_neg (by omega)]

theorem State.rawByte_memWrite (s : State) (a : Nat) {n j : Nat} (v : Nat) (hj : j < n) :
    (s.memWrite a n v).rawByte (a + j) = BitVec.ofNat 8 (v / 256 ^ (n - 1 - j)) := by
  apply State.rawByte_of_read
  simp only [State.memWrite_eq, Memory.read_writeAll, bigEndianBytes_length]
  rw [if_pos (by omega), Nat.add_sub_cancel_left, bigEndianBytes_getElem? v hj]

theorem State.rawByte_memWrite_toNat (s : State) (a : Nat) {n j : Nat} (v : Nat) (hj : j < n) :
    ((s.memWrite a n v).rawByte (a + j)).toNat = v / 256 ^ (n - 1 - j) % 256 := by
  rw [State.rawByte_memWrite s a v hj, BitVec.toNat_ofNat]

theorem State.rawBytes_memWrite (s : State) (a n v : Nat) :
    (s.memWrite a n v).rawBytes a (a + n) = bigEndianBytes n v := by
  apply List.ext_getElem?
  intro j
  rw [State.rawBytes_getElem?, Nat.add_sub_cancel_left]
  by_cases hj : j < n
  · rw [if_pos hj, State.rawByte_memWrite s a v hj, bigEndianBytes_getElem? v hj]
  · rw [if_neg hj, List.getElem?_eq_none (by simpa using hj)]

/-! ### MemRead -/

@[simp] theorem State.memRead_zero (s : State) (a : Nat) : s.memRead a 0 = 0 := rfl

/-- Reading one byte more moves what was read one place up and adds that byte as the least significant one. -/
theorem State.memRead_succ (s : State) (a n : Nat) :
    s.memRead a (n + 1) = 256 * s.memRead a n + (s.rawByte (a + n)).toNat := by
  have hshift : ∀ j ∈ List.range n, (s.rawByte (a + j)).toNat <<< (8 * (n + 1 - 1 - j)) =
      256 * (s.rawByte (a + j)).toNat <<< (8 * (n - 1 - j)) := by
    intro j hj
    have hplace : 8 * (n + 1 - 1 - j) = 8 * (n - 1 - j) + 8 := by
      have := List.mem_range.mp hj
      omega
    rw [hplace, Nat.shiftLeft_add, Nat.shiftLeft_eq _ 8, Nat.mul_comm]
  simp only [State.memRead, List.range_succ, List.map_append, List.sum_append, List.map_congr_left hshift,
    List.sum_map_mul_left]
  simp

/-- Where RAW holds the n low base-256 digits of v, most significant first, MemRead gives v modulo 256^n. -/
theorem State.memRead_of_digits (s : State) (a n v : Nat)
    (h : ∀ j, j < n → (s.rawByte (a + j)).toNat = v / 256 ^ (n - 1 - j) % 256) :
    s.memRead a n = v % 256 ^ n := by
  induction n generalizing v with
  | zero => simp [Nat.mod_one]
  | succ n ih =>
    have hlast : (s.rawByte (a + n)).toNat = v % 256 := by simpa using h n (Nat.lt_succ_self n)
    have hrest : s.memRead a n = v / 256 % 256 ^ n := by
      apply ih
      intro j hj
      have hplace : n + 1 - 1 - j = n - 1 - j + 1 := by omega
      rw [h j (by omega), hplace, Nat.pow_succ', Nat.div_div_eq_div_mul]
    calc s.memRead a (n + 1)
        = v % 256 + 256 * (v / 256 % 256 ^ n) := by rw [State.memRead_succ, hrest, hlast, Nat.add_comm]
      _ = v % 256 ^ (n + 1) := by rw [Nat.pow_succ', Nat.mod_mul]

theorem State.memRead_memWrite (s : State) (a : Nat) {n v : Nat} (hv : v < 256 ^ n) :
    (s.memWrite a n v).memRead a n = v := by
  rw [State.memRead_of_digits _ a n v fun j hj => State.rawByte_memWrite_toNat s a v hj, Nat.mod_eq_of_lt hv]

theorem wordOfBytes_toNat (hi lo : Byte) : (wordOfBytes hi lo).toNat = 256 * hi.toNat + lo.toNat := by
  rw [wordOfBytes, BitVec.toNat_append, ← Nat.shiftLeft_add_eq_or_of_lt lo.isLt, Nat.shiftLeft_eq, Nat.mul_comm]

/-- MemRead of two bytes is the Word16 the commands make of them, high byte first (R47). -/
theorem State.memRead_two (s : State) (a : Nat) :
    s.memRead a 2 = (wordOfBytes (s.rawByte a) (s.rawByte (a + 1))).toNat := by
  simp [State.memRead_succ, wordOfBytes_toNat]

/-- Settles O13: the bytes MemWrite stores are the digits of the value, which MemRead puts together again; at two bytes
both are the word functions of the commands. -/
theorem multiByteAccessIsBigEndian : Obligations.MultiByteAccessIsBigEndian := by
  unfold Obligations.MultiByteAccessIsBigEndian
  constructor
  · intro s a n v hv
    exact ⟨s.memRead_memWrite a hv, fun j hj => s.rawByte_memWrite_toNat a v hj,
      fun b hb => s.read_memWrite_outside v hb, rfl⟩
  · intro s a w
    exact ⟨s.memRead_two a, by rw [State.memWrite_eq, bigEndianBytes_two],
      by rw [State.rawBytes_memWrite, bigEndianBytes_two]⟩

end Sys2Proof.Machine

/-! O58 and O57: every step keeps the state legal. `Legal` names the parts of State.inv together with the capacities;
each update a step can make keeps it, where what the update stores fits. -/

namespace Sys2Proof.Machine

open Sys2Proof

/-! ### One result per operation -/

/-- The result of a command by its operation and FMT code: the nine rows of a PLANE operation differ only in the
format they pass (41_plane_decode.md R91, 42_plane_encode.md R111). -/
def opResult (op : Op) (fmt : FmtCode) (s : State) : Except ErrorKind State :=
  match op with
  | .nop => .ok s
  | .decode => withFormat fmt fun f => decodeBody f s
  | .encode => withFormat fmt fun f => encodeBody f s
  | .planeDecode => withFormat fmt fun f => planeDecodeBody f s
  | .planeEncode => withFormat fmt fun f => planeEncodeBody f s
  | .palBuild => withIndexed fmt fun c => palBuildBody c s
  | .palRead => withIndexed fmt fun c => palReadBody c s
  | .palWrite => withIndexed fmt fun c => palWriteBody c s
  | .swizzle => withFormat fmt fun f => swizzleBody f s
  | .unpack5551 => .ok { s with pixel := unpack5551 s.word }
  | .pack5551 => .ok { s with word := pack5551 s.pixel }

theorem commandResult_eq_opResult (i : Instr) (s : State) : commandResult i s = opResult i.op i.fmt s := by
  cases i <;> rfl

theorem exec_eq_commit_opResult (i : Instr) (s : State) : exec i s = commit s (opResult i.op i.fmt s) := by
  rw [exec_eq_commit, commandResult_eq_opResult]

/-- Everything an instruction can do: the error alone, or the writes of its operation. -/
theorem exec_next {i : Instr} {s t : State} (h : exec i s = .next t) :
    (∃ e, t = s.raise e) ∨ ∃ u, opResult i.op i.fmt s = .ok u ∧ t = u.succeed := by
  rw [exec_eq_commit_opResult] at h
  rcases commit_next h with ⟨e, -, ht⟩ | hok
  · exact .inl ⟨e, ht⟩
  · exact .inr hok

/-! ### What the commands store -/

theorem CIFormat.cap_le (c : CIFormat) : c.cap ≤ 256 := by
  rcases Format.cap_cases c with h | h <;> omega

/-- The plane of an image of an accepted width has the size the geometry gives it (20_memory.md R44). -/
theorem planeEncode_image_length {f : Format} {s : State} (hodd : oddWidth f s.imgWidth = false) (pal : Palette)
    (count : Nat) :
    (planeEncode f (s.surfPixels s.imgPixels) pal count).length = planeBytes f s.imgWidth s.imgHeight := by
  have heven : ¬ (f.bpp = 4 ∧ s.imgWidth % 2 = 1) := by
    rw [← oddWidth_eq_true, hodd]
    exact Bool.false_ne_true
  have hpixels : f.bpp = 4 → (s.surfPixels s.imgPixels).length % 2 = 0 := by
    intro hb
    have hw : s.imgWidth % 2 = 0 := by
      have : s.imgWidth % 2 ≠ 1 := fun h => heven ⟨hb, h⟩
      omega
    rw [State.surfPixels_length, State.imgPixels, Nat.mul_mod, hw, Nat.zero_mul, Nat.zero_mod]
  rw [planeEncode_length f _ pal count hpixels, State.surfPixels_length, planeBytes_eq f _ _ heven, State.imgPixels]

/-- The palette an encode ends with counts at most 256 colors, if the one it starts from does. -/
theorem encodePalette_count_le {f : Format} {pal pal' : Palette} {n m : Nat} {px : List Pixel} (hn : n ≤ 256)
    (h : encodePalette f pal n px = .ok (pal', m)) : m ≤ 256 := by
  simp only [encodePalette] at h
  split at h
  · simp only [Except.ok.injEq, Prod.mk.injEq] at h
    omega
  · rename_i c _
    obtain ⟨-, hm, -⟩ := paletteExtend_ok (CIFormat.cap_le c) h
    exact Nat.le_trans hm (CIFormat.cap_le c)

/-- What splitPalette leaves is the input without the palette. -/
theorem splitPalette_rest_length {B pb rest : List Byte} {nb : Nat} {atStart : Bool}
    (h : splitPalette B nb atStart = .ok (pb, rest)) : rest.length = B.length - nb := by
  rcases splitPalette_cases B nb atStart with ⟨-, he⟩ | ⟨-, pb', rest', he, -, hlen, -⟩
  · rw [he] at h
    cases h
  · rw [he] at h
    simp only [Except.ok.injEq, Prod.mk.injEq] at h
    rw [← h.2, hlen]

/-- The swizzle never puts out more bytes than the plane has (44_swizzle.md R153). -/
theorem swizzle_length_le (B : List Byte) (W H bpp : Nat) (h : H * bytesPerRow bpp W ≤ B.length) :
    (swizzle B W H bpp).length ≤ H * bytesPerRow bpp W := by
  induction H with
  | zero => simp
  | succ H ih =>
    have hrow : (swizzleRow B bpp W H).length ≤ bytesPerRow bpp W := by
      rw [swizzleRow_length B bpp W H h]
      split
      · exact Nat.le_refl _
      · exact Nat.div_mul_le_self _ _
    rw [Nat.succ_mul] at h
    rw [swizzle_succ, List.length_append, Nat.succ_mul]
    exact Nat.add_le_add (ih (by omega)) hrow

/-! ### Legal states -/

/-- A legal state of an engine with the capacities `rc` and `sc`: `State.inv` part by part, with the capacities in
view, so that an update that keeps `Legal rc sc` keeps them too. -/
structure Legal (rc sc : Nat) (s : State) : Prop where
  rawCap_eq : s.rawCap = rc
  surfCap_eq : s.surfCap = sc
  raw_wf : s.raw.wf = true
  surf_wf : s.surf.wf = true
  raw_below : s.raw.below rc = true
  surf_below : s.surf.below sc = true
  err_le : s.err.toNat ≤ 7
  count_le : s.palCount.toNat ≤ 256

theorem State.inv_iff (s : State) : s.inv = true ↔ Legal s.rawCap s.surfCap s := by
  simp only [State.inv, Bool.and_eq_true, decide_eq_true_eq]
  constructor
  · rintro ⟨⟨⟨⟨⟨hrw, hsw⟩, hrb⟩, hsb⟩, herr⟩, hcount⟩
    exact ⟨rfl, rfl, hrw, hsw, hrb, hsb, herr, hcount⟩
  · rintro ⟨-, -, hrw, hsw, hrb, hsb, herr, hcount⟩
    exact ⟨⟨⟨⟨⟨hrw, hsw⟩, hrb⟩, hsb⟩, herr⟩, hcount⟩

namespace Legal

variable {rc sc : Nat} {s t : State}

theorem inv (h : Legal rc sc s) : s.inv = true := by
  rw [State.inv_iff, h.rawCap_eq, h.surfCap_eq]
  exact h

theorem raise (h : Legal rc sc s) (e : ErrorKind) : Legal rc sc (s.raise e) := { h with err_le := e.code_le }

theorem succeed (h : Legal rc sc s) : Legal rc sc s.succeed := { h with err_le := Nat.zero_le 7 }

theorem writeRaw (h : Legal rc sc s) {B : List Byte} (hB : B.length ≤ rc) : Legal rc sc (s.writeRaw B) :=
  { h with
    raw_wf := Memory.wf_writeAll _ _ _ h.raw_wf
    raw_below := Memory.below_writeAll _ _ _ _ (by omega) h.raw_below }

theorem setRawLen (h : Legal rc sc s) (n : Nat) : Legal rc sc (s.setRawLen n) := { h with }

theorem storeTexture (h : Legal rc sc s) {B : List Byte} (hB : B.length ≤ rc) : Legal rc sc (s.storeTexture B) :=
  (h.writeRaw hB).setRawLen _

theorem writeSurf (h : Legal rc sc s) {px : List Pixel} (hpx : px.length ≤ sc) : Legal rc sc (s.writeSurf px) :=
  { h with
    surf_wf := Memory.wf_writeAll _ _ _ h.surf_wf
    surf_below := Memory.below_writeAll _ _ _ _ (by omega) h.surf_below }

theorem storePalette (h : Legal rc sc s) (pal : Palette) {n : Nat} (hn : n ≤ 256) :
    Legal rc sc (s.storePalette pal n) :=
  { h with
    count_le := by
      rw [State.storePalette_palCount, BitVec.toNat_ofNat]
      omega }

theorem storeIfIndexed (h : Legal rc sc s) (f : Format) (pal : Palette) {n : Nat} (hn : n ≤ 256) :
    Legal rc sc (s.storeIfIndexed f pal n) := by
  unfold State.storeIfIndexed
  split
  · exact h
  · exact h.storePalette pal hn

theorem loadIfIndexed (h : Legal rc sc s) (f : Format) (pal : Palette) : Legal rc sc (s.loadIfIndexed f pal) := by
  unfold State.loadIfIndexed
  split
  · exact h
  · exact h.storePalette pal (CIFormat.cap_le _)

/-! #### The commands -/

theorem of_planeDecodeBody (h : Legal rc sc s) {f : Format} (ht : planeDecodeBody f s = .ok t) : Legal rc sc t := by
  obtain ⟨-, -, hsurf, -, rfl⟩ := planeDecodeBody_ok ht
  exact h.writeSurf (by rwa [planeDecode_length, ← h.surfCap_eq])

theorem of_decodeBody (h : Legal rc sc s) {f : Format} (ht : decodeBody f s = .ok t) : Legal rc sc t := by
  obtain ⟨-, -, hsurf, pal, rest, -, -, -, rfl⟩ := decodeBody_ok ht
  exact (h.writeSurf (by rwa [planeDecode_length, ← h.surfCap_eq])).loadIfIndexed f pal

theorem of_planeEncodeBody (h : Legal rc sc s) {f : Format} (ht : planeEncodeBody f s = .ok t) : Legal rc sc t := by
  obtain ⟨hodd, -, hraw, pal, count, hpal, rfl⟩ := planeEncodeBody_ok ht
  have hlen := planeEncode_image_length hodd pal count
  have hstored := (h.writeRaw (by rwa [hlen, ← h.rawCap_eq])).setRawLen (planeBytes f s.imgWidth s.imgHeight)
  exact hstored.storeIfIndexed f pal (encodePalette_count_le h.count_le hpal)

theorem of_encodeBody (h : Legal rc sc s) {f : Format} (ht : encodeBody f s = .ok t) : Legal rc sc t := by
  obtain ⟨-, -, pal, count, hpal, hraw, rfl⟩ := encodeBody_ok ht
  have hstored := h.storeTexture (h.rawCap_eq ▸ hraw)
  exact hstored.storeIfIndexed f pal (encodePalette_count_le (Nat.zero_le 256) hpal)

theorem of_palBuildBody (h : Legal rc sc s) {c : CIFormat} (ht : palBuildBody c s = .ok t) : Legal rc sc t := by
  obtain ⟨-, pal, count, hpal, rfl⟩ := palBuildBody_ok ht
  obtain ⟨-, hcount, -⟩ := paletteExtend_ok (CIFormat.cap_le c) hpal
  exact h.storePalette pal (Nat.le_trans hcount (CIFormat.cap_le c))

theorem of_palReadBody (h : Legal rc sc s) {c : CIFormat} (ht : palReadBody c s = .ok t) : Legal rc sc t := by
  obtain ⟨hlen, pb, rest, hsplit, rfl⟩ := palReadBody_ok ht
  have hrest : rest.length ≤ rc := by
    have hcap := h.rawCap_eq
    rw [splitPalette_rest_length hsplit, State.rawBytes_length]
    omega
  exact ((h.storePalette _ (CIFormat.cap_le c)).writeRaw hrest).setRawLen _

theorem of_palWriteBody (h : Legal rc sc s) {c : CIFormat} (ht : palWriteBody c s = .ok t) : Legal rc sc t := by
  obtain ⟨-, hraw, rfl⟩ := palWriteBody_ok ht
  refine (h.writeRaw ?_).setRawLen _
  rw [attachPalette_length, paletteBytes_length, State.rawBytes_length, ← h.rawCap_eq, ← CIFormat.paletteSize_eq]
  omega

theorem of_swizzleBody (h : Legal rc sc s) {f : Format} (ht : swizzleBody f s = .ok t) : Legal rc sc t := by
  rcases swizzleBody_ok ht with ⟨-, rfl⟩ | ⟨-, -, hcap, hlen, rfl⟩
  · exact h
  · apply h.storeTexture
    have hout := swizzle_length_le (s.rawBytes 0 (planeBytes f s.imgWidth s.imgHeight)) s.imgWidth s.imgHeight f.bpp
      (by simp [planeBytes])
    have hrc := h.rawCap_eq
    rw [planeBytes] at hlen
    omega

theorem of_opResult (h : Legal rc sc s) {op : Op} {fmt : FmtCode} (ht : opResult op fmt s = .ok t) :
    Legal rc sc t := by
  cases op with
  | nop => cases ht; exact h
  | decode => obtain ⟨_, -, ht⟩ := withFormat_ok ht; exact h.of_decodeBody ht
  | encode => obtain ⟨_, -, ht⟩ := withFormat_ok ht; exact h.of_encodeBody ht
  | planeDecode => obtain ⟨_, -, ht⟩ := withFormat_ok ht; exact h.of_planeDecodeBody ht
  | planeEncode => obtain ⟨_, -, ht⟩ := withFormat_ok ht; exact h.of_planeEncodeBody ht
  | palBuild => obtain ⟨_, _, -, -, ht⟩ := withIndexed_ok ht; exact h.of_palBuildBody ht
  | palRead => obtain ⟨_, _, -, -, ht⟩ := withIndexed_ok ht; exact h.of_palReadBody ht
  | palWrite => obtain ⟨_, _, -, -, ht⟩ := withIndexed_ok ht; exact h.of_palWriteBody ht
  | swizzle => obtain ⟨_, -, ht⟩ := withFormat_ok ht; exact h.of_swizzleBody ht
  | unpack5551 => cases ht; exact { h with }
  | pack5551 => cases ht; exact { h with }

theorem of_exec (h : Legal rc sc s) {i : Instr} (ht : exec i s = .next t) : Legal rc sc t := by
  rcases exec_next ht with ⟨e, rfl⟩ | ⟨u, hu, rfl⟩
  · exact h.raise e
  · exact (h.of_opResult hu).succeed

/-! #### The host's events -/

theorem of_issue (h : Legal rc sc s) {c : Word32} (ht : issue c s = .next t) : Legal rc sc t := by
  rcases issue_cases c s with ⟨i, -, hi⟩ | ⟨r, -, hr⟩
  · rw [hi, ← exec_eq_commit] at ht
    exact h.of_exec ht
  · rw [hr] at ht
    obtain rfl := Outcome.next_inj ht
    exact h.raise _

theorem setReg (h : Legal rc sc s) (r : Reg) (v : Word32) : Legal rc sc (s.setReg r v) := by
  cases r <;> exact { h with }

theorem hostWriteRaw (h : Legal rc sc s) (a : Nat) (v : Byte) : Legal rc sc (s.hostWriteRaw a v) := by
  by_cases ha : a < s.rawCap
  · rw [hostWriteRaw_of_lt ha]
    exact { h with
      raw_wf := Memory.wf_write _ _ _ h.raw_wf
      raw_below := Memory.below_write _ _ _ _ (h.rawCap_eq ▸ ha) h.raw_below }
  · rwa [hostWriteRaw_of_le (Nat.le_of_not_lt ha)]

theorem hostWriteSurf (h : Legal rc sc s) (k : Nat) (p : Pixel) : Legal rc sc (s.hostWriteSurf k p) := by
  by_cases hk : k < s.surfCap
  · rw [hostWriteSurf_of_lt hk]
    exact { h with
      surf_wf := Memory.wf_write _ _ _ h.surf_wf
      surf_below := Memory.below_write _ _ _ _ (h.surfCap_eq ▸ hk) h.surf_below }
  · rwa [hostWriteSurf_of_le (Nat.le_of_not_lt hk)]

theorem assertReset (h : Legal rc sc s) : Legal rc sc s.assertReset :=
  { h with err_le := Nat.zero_le 7, count_le := Nat.zero_le 256 }

theorem of_perform (h : Legal rc sc s) {e : HostEvent} (ht : perform e s = .next t) : Legal rc sc t := by
  rcases perform_next ht with ⟨c, -, hc⟩ | ⟨r, v, -, -, rfl⟩ | ⟨_, _, -, -, rfl⟩ | ⟨d, rfl⟩ | ⟨a, v, -, rfl⟩ |
    ⟨k, p, -, rfl⟩ | ⟨i, v, -, rfl⟩ | ⟨-, rfl⟩
  · exact h.of_issue hc
  · exact h.setReg r v
  · exact h
  · exact { h with }
  · exact h.hostWriteRaw a v
  · exact h.hostWriteSurf k p
  · exact { h with }
  · exact h.assertReset

theorem of_step (h : Legal rc sc s) (ht : step s = .next t) : Legal rc sc t := by
  rcases step_next ht with ⟨-, rfl⟩ | ⟨e, rest, -, he⟩
  · exact h
  · have hrest : Legal rc sc (s.setPending rest) := { h with }
    exact hrest.of_perform he

end Legal

/-! ### Every step but a loss of power has a next state -/

theorem issue_total (c : Word32) (s : State) : ∃ t, issue c s = .next t := by
  rcases issue_cases c s with ⟨i, -, hi⟩ | ⟨r, -, hr⟩
  · exact ⟨_, hi⟩
  · exact ⟨_, hr⟩

theorem hostWriteReg_total (offset : Nat) (v : Word32) (s : State) : ∃ t, hostWriteReg offset v s = .next t := by
  unfold hostWriteReg
  split
  · exact issue_total v s
  · exact ⟨_, rfl⟩
  · exact ⟨_, rfl⟩

theorem perform_total {e : HostEvent} (s : State) (he : e ≠ .losePower) : ∃ t, perform e s = .next t := by
  cases e with
  | writeReg offset v => exact hostWriteReg_total offset v s
  | losePower => exact absurd rfl he
  | _ => exact ⟨_, rfl⟩

theorem step_of_idle {s : State} (h : s.pending = []) : step s = .next s := by
  simp only [step, stepEvent, h]

theorem step_of_pending {s : State} {e : HostEvent} {rest : List HostEvent} (h : s.pending = e :: rest) :
    step s = perform e (s.setPending rest) := by
  simp only [step, stepEvent, h]

theorem safeStep_of_powered {s : State} (h : s.pending.head? ≠ some .losePower) : safeStep s := by
  cases hp : s.pending with
  | nil => exact ⟨s, step_of_idle hp⟩
  | cons e rest =>
    have he : e ≠ .losePower := by
      rintro rfl
      exact h (by rw [hp]; rfl)
    obtain ⟨t, ht⟩ := perform_total (s.setPending rest) he
    exact ⟨t, (step_of_pending hp).trans ht⟩

/-- Settles O58: the parts of `Legal`, with the capacities among them, are kept by every update a step can make. -/
theorem everyStepKeepsTheStateLegal : Obligations.EveryStepKeepsTheStateLegal := by
  unfold Obligations.EveryStepKeepsTheStateLegal
  intro s hs
  refine ⟨fun t ht => ?_, safeStep_of_powered⟩
  have hlegal := ((State.inv_iff s).mp hs).of_step ht
  exact ⟨hlegal.inv, hlegal.rawCap_eq, hlegal.surfCap_eq⟩

/-- Settles O57: both memories are empty after reset, and the two fields are 0. -/
theorem resetStateIsLegal : Obligations.ResetStateIsLegal := by
  unfold Obligations.ResetStateIsLegal
  rw [State.inv_iff]
  exact ⟨rfl, rfl, rfl, rfl, rfl, rfl, Nat.zero_le 7, Nat.zero_le 256⟩

end Sys2Proof.Machine

/-! O56: what each command may write (10_state.md R38). `WritesOnlyOwn` is the table for one operation; each update is
kept by it under the permission the table gives, and each command is a chain of its updates. -/

namespace Sys2Proof.Machine

open Sys2Proof

/-- An FMT code that is not indexed names a format without palette (30_encoding.md R61). -/
theorem ci?_of_not_indexed {fmt : FmtCode} {f : Format} (hf : Format.ofCode fmt = some f)
    (h : FmtCode.indexed fmt = false) : f.ci? = none := by
  cases f
  case ci4 => revert fmt; decide
  case ci8 => revert fmt; decide
  all_goals rfl

/-- From s to t, only what a command of the operation may write has changed. -/
structure WritesOnlyOwn (op : Op) (indexed : Bool) (s t : State) : Prop where
  host : t = { s with
    err := t.err, rawLen := t.rawLen, palCount := t.palCount, word := t.word, pixel := t.pixel, raw := t.raw,
    surf := t.surf, pal := t.pal }
  raw : op ∉ [.encode, .planeEncode, .palRead, .palWrite, .swizzle] → t.raw = s.raw ∧ t.rawLen = s.rawLen
  surf : op ∉ [.decode, .planeDecode] → t.surf = s.surf
  pal : op ∉ [.palBuild, .palRead] ∧ (op ∉ [.decode, .encode, .planeEncode] ∨ indexed = false) →
    t.pal = s.pal ∧ t.palCount = s.palCount
  word : op ≠ .pack5551 → t.word = s.word
  pixel : op ≠ .unpack5551 → t.pixel = s.pixel

namespace WritesOnlyOwn

variable {op : Op} {indexed : Bool} {s t : State}

theorem refl (op : Op) (indexed : Bool) (s : State) : WritesOnlyOwn op indexed s s :=
  ⟨rfl, fun _ => ⟨rfl, rfl⟩, fun _ => rfl, fun _ => ⟨rfl, rfl⟩, fun _ => rfl, fun _ => rfl⟩

/-- STATUS.ERR is every command's to write. -/
theorem setErr (h : WritesOnlyOwn op indexed s t) (e : BitVec 4) : WritesOnlyOwn op indexed s { t with err := e } :=
  { h with host := congrArg (fun u => { u with err := e }) h.host }

theorem writeRaw (h : WritesOnlyOwn op indexed s t)
    (hop : op ∈ [.encode, .planeEncode, .palRead, .palWrite, .swizzle]) (B : List Byte) :
    WritesOnlyOwn op indexed s (t.writeRaw B) :=
  { h with
    host := congrArg (·.writeRaw B) h.host
    raw := fun hn => absurd hop hn }

theorem setRawLen (h : WritesOnlyOwn op indexed s t)
    (hop : op ∈ [.encode, .planeEncode, .palRead, .palWrite, .swizzle]) (n : Nat) :
    WritesOnlyOwn op indexed s (t.setRawLen n) :=
  { h with
    host := congrArg (·.setRawLen n) h.host
    raw := fun hn => absurd hop hn }

theorem writeSurf (h : WritesOnlyOwn op indexed s t) (hop : op ∈ [.decode, .planeDecode]) (px : List Pixel) :
    WritesOnlyOwn op indexed s (t.writeSurf px) :=
  { h with
    host := congrArg (·.writeSurf px) h.host
    surf := fun hn => absurd hop hn }

theorem storePalette (h : WritesOnlyOwn op indexed s t)
    (hop : op ∈ [.palBuild, .palRead] ∨ op ∈ [.decode, .encode, .planeEncode] ∧ indexed = true)
    (pal : Palette) (n : Nat) : WritesOnlyOwn op indexed s (t.storePalette pal n) :=
  { h with
    host := congrArg (·.storePalette pal n) h.host
    pal := by
      rintro ⟨hnot, hunindexed⟩
      rcases hop with hin | ⟨hin, htrue⟩
      · exact absurd hin hnot
      · rcases hunindexed with hnot' | hfalse
        · exact absurd hin hnot'
        · exact absurd (htrue.symm.trans hfalse) (by decide) }

/-- Where the format is the one the FMT code names, only an indexed command stores a palette. -/
theorem storePalette_of_ci {fmt : FmtCode} {f : Format} {c : CIFormat}
    (h : WritesOnlyOwn op (FmtCode.indexed fmt) s t) (hop : op ∈ [.decode, .encode, .planeEncode])
    (hf : Format.ofCode fmt = some f) (hc : f.ci? = some c) (pal : Palette) (n : Nat) :
    WritesOnlyOwn op (FmtCode.indexed fmt) s (t.storePalette pal n) := by
  refine h.storePalette (.inr ⟨hop, ?_⟩) pal n
  by_contra hfalse
  rw [ci?_of_not_indexed hf (Bool.eq_false_iff.mpr hfalse)] at hc
  cases hc

theorem storeIfIndexed {fmt : FmtCode} {f : Format} (h : WritesOnlyOwn op (FmtCode.indexed fmt) s t)
    (hop : op ∈ [.decode, .encode, .planeEncode]) (hf : Format.ofCode fmt = some f) (pal : Palette) (n : Nat) :
    WritesOnlyOwn op (FmtCode.indexed fmt) s (t.storeIfIndexed f pal n) := by
  unfold State.storeIfIndexed
  split
  · exact h
  · rename_i hc
    exact h.storePalette_of_ci hop hf hc pal n

theorem loadIfIndexed {fmt : FmtCode} {f : Format} (h : WritesOnlyOwn op (FmtCode.indexed fmt) s t)
    (hop : op ∈ [.decode, .encode, .planeEncode]) (hf : Format.ofCode fmt = some f) (pal : Palette) :
    WritesOnlyOwn op (FmtCode.indexed fmt) s (t.loadIfIndexed f pal) := by
  unfold State.loadIfIndexed
  split
  · exact h
  · rename_i hc
    exact h.storePalette_of_ci hop hf hc pal _

theorem of_opResult {fmt : FmtCode} (h : opResult op fmt s = .ok t) :
    WritesOnlyOwn op (FmtCode.indexed fmt) s t := by
  have start := refl op (FmtCode.indexed fmt) s
  cases op with
  | nop => cases h; exact start
  | decode =>
    obtain ⟨f, hf, h⟩ := withFormat_ok h
    obtain ⟨-, -, -, pal, _, -, -, -, rfl⟩ := decodeBody_ok h
    exact (start.writeSurf (by decide) _).loadIfIndexed (by decide) hf pal
  | encode =>
    obtain ⟨f, hf, h⟩ := withFormat_ok h
    obtain ⟨-, -, pal, count, -, -, rfl⟩ := encodeBody_ok h
    exact ((start.writeRaw (by decide) _).setRawLen (by decide) _).storeIfIndexed (by decide) hf pal count
  | planeDecode =>
    obtain ⟨f, -, h⟩ := withFormat_ok h
    obtain ⟨-, -, -, -, rfl⟩ := planeDecodeBody_ok h
    exact start.writeSurf (by decide) _
  | planeEncode =>
    obtain ⟨f, hf, h⟩ := withFormat_ok h
    obtain ⟨-, -, -, pal, count, -, rfl⟩ := planeEncodeBody_ok h
    exact ((start.writeRaw (by decide) _).setRawLen (by decide) _).storeIfIndexed (by decide) hf pal count
  | palBuild =>
    obtain ⟨-, c, -, -, h⟩ := withIndexed_ok h
    obtain ⟨-, pal, count, -, rfl⟩ := palBuildBody_ok h
    exact start.storePalette (.inl (by decide)) pal count
  | palRead =>
    obtain ⟨-, c, -, -, h⟩ := withIndexed_ok h
    obtain ⟨-, pb, rest, -, rfl⟩ := palReadBody_ok h
    exact ((start.storePalette (.inl (by decide)) _ _).writeRaw (by decide) rest).setRawLen (by decide) _
  | palWrite =>
    obtain ⟨-, c, -, -, h⟩ := withIndexed_ok h
    obtain ⟨-, -, rfl⟩ := palWriteBody_ok h
    exact (start.writeRaw (by decide) _).setRawLen (by decide) _
  | swizzle =>
    obtain ⟨f, -, h⟩ := withFormat_ok h
    rcases swizzleBody_ok h with ⟨-, rfl⟩ | ⟨-, -, -, -, rfl⟩
    · exact start
    · exact (start.writeRaw (by decide) _).setRawLen (by decide) _
  | unpack5551 => cases h; exact { start with host := rfl, pixel := fun hn => absurd rfl hn }
  | pack5551 => cases h; exact { start with host := rfl, word := fun hn => absurd rfl hn }

theorem of_exec {i : Instr} (h : exec i s = .next t) : WritesOnlyOwn i.op i.indexed s t := by
  rcases exec_next h with ⟨e, rfl⟩ | ⟨u, hu, rfl⟩
  · exact (refl i.op i.indexed s).setErr e.code
  · exact (of_opResult hu).setErr completedCode

end WritesOnlyOwn

/-- Settles O56: an error writes STATUS.ERR alone, and a command that completes makes the writes of its operation. -/
theorem commandsWriteOnlyTheirOwnState : Obligations.CommandsWriteOnlyTheirOwnState := by
  unfold Obligations.CommandsWriteOnlyTheirOwnState
  intro i s t ht
  obtain ⟨hhost, hraw, hsurf, hpal, hword, hpixel⟩ := WritesOnlyOwn.of_exec ht
  refine ⟨?_, hraw, hsurf, hpal, hword, hpixel⟩
  rw [hhost]
  exact ⟨rfl, rfl, rfl, rfl, rfl, rfl, rfl, rfl⟩

end Sys2Proof.Machine

/-! O59: no command reads a byte of RAW at or beyond RAW_LEN (10_state.md R35). Two states of one texture pass the
same checks and give a command the same bytes, so their results agree; a command that stores a texture writes every
byte below the RAW_LEN it sets. -/

namespace Sys2Proof.Machine

open Sys2Proof

/-! ### States of one texture -/

section sameTexture

variable {s s' : State}

/-- What a command reads of a state besides RAW, which two states of one texture share. -/
theorem sameTexture.operands (h : sameTexture s s') :
    s'.imgWidth = s.imgWidth ∧ s'.imgHeight = s.imgHeight ∧ s'.imgPixels = s.imgPixels ∧
      s'.rawLength = s.rawLength ∧ s'.rawCap = s.rawCap ∧ s'.surfCap = s.surfCap ∧ s'.swzEn = s.swzEn ∧
      s'.palAtStart = s.palAtStart ∧ s'.pal = s.pal ∧ s'.paletteCount = s.paletteCount ∧
      ∀ n, s'.surfPixels n = s.surfPixels n := by
  rw [h.1]
  exact ⟨rfl, rfl, rfl, rfl, rfl, rfl, rfl, rfl, rfl, rfl, fun n => State.surfPixels_congr rfl n⟩

theorem sameTexture.rawBytes (h : sameTexture s s') {n : Nat} (hn : n ≤ s.rawLength) :
    s'.rawBytes 0 n = s.rawBytes 0 n :=
  State.rawBytes_congr rfl fun i hi => h.2 _ (by omega)

theorem sameTexture.setErr (h : sameTexture s s') (e : BitVec 4) :
    sameTexture { s with err := e } { s' with err := e } :=
  ⟨congrArg (fun u => { u with err := e }) h.1, h.2⟩

theorem sameTexture.writeSurf (h : sameTexture s s') (px : List Pixel) :
    sameTexture (s.writeSurf px) (s'.writeSurf px) :=
  ⟨congrArg (·.writeSurf px) h.1, h.2⟩

theorem sameTexture.storePalette (h : sameTexture s s') (pal : Palette) (n : Nat) :
    sameTexture (s.storePalette pal n) (s'.storePalette pal n) :=
  ⟨congrArg (·.storePalette pal n) h.1, h.2⟩

theorem sameTexture.storeIfIndexed (h : sameTexture s s') (f : Format) (pal : Palette) (n : Nat) :
    sameTexture (s.storeIfIndexed f pal n) (s'.storeIfIndexed f pal n) := by
  unfold State.storeIfIndexed
  split
  · exact h
  · exact h.storePalette pal n

theorem sameTexture.loadIfIndexed (h : sameTexture s s') (f : Format) (pal : Palette) :
    sameTexture (s.loadIfIndexed f pal) (s'.loadIfIndexed f pal) := by
  unfold State.loadIfIndexed
  split
  · exact h
  · exact h.storePalette pal _

/-- A texture stored with a length its bytes reach hides every byte that differed. -/
theorem sameTexture.storeBytes (h : sameTexture s s') {B : List Byte} {n : Nat} (hn : n ≤ B.length) :
    sameTexture ((s.writeRaw B).setRawLen n) ((s'.writeRaw B).setRawLen n) := by
  refine ⟨congrArg (fun u => (u.writeRaw B).setRawLen n) h.1, fun a ha => ?_⟩
  have hstored : a < B.length := by
    have hle : n % 2 ^ 32 ≤ n := Nat.mod_le _ _
    rw [State.rawLength, State.setRawLen_rawLen, BitVec.toNat_ofNat] at ha
    omega
  have hbyte (u : State) : ((u.writeRaw B).setRawLen n).rawByte a = byteAt B a :=
    (State.rawByte_writeRaw u B a).trans (if_pos hstored)
  rw [hbyte, hbyte]

end sameTexture

/-! ### Results that agree -/

/-- The two results are the same error, or states of one texture. -/
inductive ResultsAgree : Except ErrorKind State → Except ErrorKind State → Prop
  | error (e : ErrorKind) : ResultsAgree (.error e) (.error e)
  | ok {t t' : State} (h : sameTexture t t') : ResultsAgree (.ok t) (.ok t')

/-- A check that both sides make, and on which both raise one error. -/
theorem ResultsAgree.check {c : Prop} [Decidable c] {e : ErrorKind} {r r' : Except ErrorKind State}
    (h : ¬ c → ResultsAgree r r') : ResultsAgree (if c then .error e else r) (if c then .error e else r') := by
  split
  · exact .error e
  · exact h ‹_›

theorem ResultsAgree.commit {s s' t t' : State} {r r' : Except ErrorKind State} (hs : sameTexture s s')
    (hr : ResultsAgree r r') (ht : commit s r = .next t) (ht' : commit s' r' = .next t') : sameTexture t t' := by
  cases hr with
  | error e =>
    obtain rfl := Outcome.next_inj ht
    obtain rfl := Outcome.next_inj ht'
    exact hs.setErr e.code
  | ok h =>
    obtain rfl := Outcome.next_inj ht
    obtain rfl := Outcome.next_inj ht'
    exact h.setErr completedCode

section bodies

variable {s s' : State}

theorem withFormat_agree (fmt : FmtCode) {body body' : Format → Except ErrorKind State}
    (h : ∀ f, ResultsAgree (body f) (body' f)) : ResultsAgree (withFormat fmt body) (withFormat fmt body') := by
  unfold withFormat
  split
  · exact .error _
  · exact h _

theorem withIndexed_agree (fmt : FmtCode) {body body' : CIFormat → Except ErrorKind State}
    (h : ∀ c, ResultsAgree (body c) (body' c)) : ResultsAgree (withIndexed fmt body) (withIndexed fmt body') := by
  unfold withIndexed
  split
  · exact .error _
  · exact h _

theorem planeDecodeBody_agree (h : sameTexture s s') (f : Format) :
    ResultsAgree (planeDecodeBody f s) (planeDecodeBody f s') := by
  simp only [planeDecodeBody, h.operands]
  refine .check fun _ => .check fun _ => .check fun hlen => ?_
  rw [h.rawBytes (Nat.le_of_not_lt hlen)]
  exact .ok (h.writeSurf _)

theorem planeEncodeBody_agree (h : sameTexture s s') (f : Format) :
    ResultsAgree (planeEncodeBody f s) (planeEncodeBody f s') := by
  simp only [planeEncodeBody, h.operands]
  refine .check fun hodd => .check fun _ => ?_
  split
  · exact .error _
  · rename_i pal count _
    have hlen := planeEncode_image_length (Bool.eq_false_iff.mpr hodd) pal count
    exact .check fun _ => .ok ((h.storeBytes (Nat.le_of_eq hlen.symm)).storeIfIndexed f pal count)

theorem decodePalette_agree (h : sameTexture s s') (f : Format) (B : List Byte) :
    decodePalette f s' B = decodePalette f s B := by
  simp only [decodePalette, h.operands]

theorem decodeBody_agree (h : sameTexture s s') (f : Format) :
    ResultsAgree (decodeBody f s) (decodeBody f s') := by
  simp only [decodeBody, h.operands, h.rawBytes (Nat.le_refl _), decodePalette_agree h]
  refine .check fun _ => .check fun _ => ?_
  split
  · exact .error _
  · exact .check fun _ => .check fun _ => .ok ((h.writeSurf _).loadIfIndexed f _)

theorem encodeTexture_agree (h : sameTexture s s') (f : Format) (px : List Pixel) (pal : Palette) (count : Nat) :
    encodeTexture f s' px pal count = encodeTexture f s px pal count := by
  simp only [encodeTexture, h.operands]

theorem encodeBody_agree (h : sameTexture s s') (f : Format) :
    ResultsAgree (encodeBody f s) (encodeBody f s') := by
  simp only [encodeBody, h.operands, encodeTexture_agree h]
  refine .check fun _ => .check fun _ => ?_
  split
  · exact .error _
  · exact .check fun _ => .ok ((h.storeBytes (Nat.le_refl _)).storeIfIndexed f _ _)

theorem palBuildBody_agree (h : sameTexture s s') (c : CIFormat) :
    ResultsAgree (palBuildBody c s) (palBuildBody c s') := by
  simp only [palBuildBody, h.operands]
  refine .check fun _ => ?_
  split
  · exact .error _
  · exact .ok (h.storePalette _ _)

theorem palReadBody_agree (h : sameTexture s s') (c : CIFormat) :
    ResultsAgree (palReadBody c s) (palReadBody c s') := by
  simp only [palReadBody, h.operands, h.rawBytes (Nat.le_refl _)]
  refine .check fun _ => ?_
  split
  · exact .error _
  · rename_i pb rest hsplit
    have hrest := splitPalette_rest_length hsplit
    rw [State.rawBytes_length, Nat.sub_zero] at hrest
    exact .ok ((h.storePalette _ _).storeBytes (Nat.le_of_eq hrest.symm))

theorem palWriteBody_agree (h : sameTexture s s') (c : CIFormat) :
    ResultsAgree (palWriteBody c s) (palWriteBody c s') := by
  simp only [palWriteBody, h.operands, h.rawBytes (Nat.le_refl _)]
  refine .check fun _ => .check fun _ => .check fun _ => .ok (h.storeBytes ?_)
  rw [attachPalette_length, paletteBytes_length, State.rawBytes_length, ← CIFormat.paletteSize_eq]
  omega

theorem swizzleBody_agree (h : sameTexture s s') (f : Format) :
    ResultsAgree (swizzleBody f s) (swizzleBody f s') := by
  simp only [swizzleBody, h.operands]
  split
  · exact .ok h
  · refine .check fun _ => .check fun _ => .check fun hlen => ?_
    rw [h.rawBytes (Nat.le_of_not_lt hlen)]
    exact .ok (h.storeBytes (Nat.le_refl _))

theorem opResult_agree (h : sameTexture s s') (op : Op) (fmt : FmtCode) :
    ResultsAgree (opResult op fmt s) (opResult op fmt s') := by
  cases op with
  | nop => exact .ok h
  | decode => exact withFormat_agree fmt (decodeBody_agree h)
  | encode => exact withFormat_agree fmt (encodeBody_agree h)
  | planeDecode => exact withFormat_agree fmt (planeDecodeBody_agree h)
  | planeEncode => exact withFormat_agree fmt (planeEncodeBody_agree h)
  | palBuild => exact withIndexed_agree fmt (palBuildBody_agree h)
  | palRead => exact withIndexed_agree fmt (palReadBody_agree h)
  | palWrite => exact withIndexed_agree fmt (palWriteBody_agree h)
  | swizzle => exact withFormat_agree fmt (swizzleBody_agree h)
  | unpack5551 => exact .ok ⟨congrArg (fun u => { u with pixel := unpack5551 u.word }) h.1, h.2⟩
  | pack5551 => exact .ok ⟨congrArg (fun u => { u with word := pack5551 u.pixel }) h.1, h.2⟩

end bodies

/-- Settles O59: the results of an instruction from two states of one texture agree, and so do their commits. -/
theorem bytesBeyondRawLenAreNeverRead : Obligations.BytesBeyondRawLenAreNeverRead := by
  unfold Obligations.BytesBeyondRawLenAreNeverRead
  intro i s s' t t' hs ht ht'
  rw [exec_eq_commit_opResult] at ht ht'
  exact (opResult_agree hs i.op i.fmt).commit hs ht ht'

end Sys2Proof.Machine

/-! O4 and O5: a step performs the next host event, and a word of the encoder's placed at CMD runs as its instruction
(10_state.md R26, R60). -/

namespace Sys2Proof

/-- The encoded fields of every row, from the lemma of each (30_encoding.md R60 to R62). -/
theorem encodedFields : (i : Instr) → Laws.EncodedFields.Statement i
  | .nop fmt => Laws.EncodedFields.nop fmt
  | .decode fmt => Laws.EncodedFields.decode fmt
  | .encode fmt => Laws.EncodedFields.encode fmt
  | .planeDecodeRgba32 => Laws.EncodedFields.planeDecodeRgba32
  | .planeDecodeRgba16 => Laws.EncodedFields.planeDecodeRgba16
  | .planeDecodeI4 => Laws.EncodedFields.planeDecodeI4
  | .planeDecodeI8 => Laws.EncodedFields.planeDecodeI8
  | .planeDecodeIa4 => Laws.EncodedFields.planeDecodeIa4
  | .planeDecodeIa8 => Laws.EncodedFields.planeDecodeIa8
  | .planeDecodeIa16 => Laws.EncodedFields.planeDecodeIa16
  | .planeDecodeCi4 => Laws.EncodedFields.planeDecodeCi4
  | .planeDecodeCi8 => Laws.EncodedFields.planeDecodeCi8
  | .planeEncodeRgba32 => Laws.EncodedFields.planeEncodeRgba32
  | .planeEncodeRgba16 => Laws.EncodedFields.planeEncodeRgba16
  | .planeEncodeI4 => Laws.EncodedFields.planeEncodeI4
  | .planeEncodeI8 => Laws.EncodedFields.planeEncodeI8
  | .planeEncodeIa4 => Laws.EncodedFields.planeEncodeIa4
  | .planeEncodeIa8 => Laws.EncodedFields.planeEncodeIa8
  | .planeEncodeIa16 => Laws.EncodedFields.planeEncodeIa16
  | .planeEncodeCi4 => Laws.EncodedFields.planeEncodeCi4
  | .planeEncodeCi8 => Laws.EncodedFields.planeEncodeCi8
  | .palBuild fmt => Laws.EncodedFields.palBuild fmt
  | .palRead fmt => Laws.EncodedFields.palRead fmt
  | .palWrite fmt => Laws.EncodedFields.palWrite fmt
  | .swizzle fmt => Laws.EncodedFields.swizzle fmt
  | .unpack5551 fmt => Laws.EncodedFields.unpack5551 fmt
  | .pack5551 fmt => Laws.EncodedFields.pack5551 fmt

theorem Op.ofCode_code (op : Op) : Op.ofCode op.code = some op := by cases op <;> rfl

theorem decode_encode (i : Instr) : decode (encode i) = .ok i := by
  obtain ⟨hrsv, hop, hfmt, hinstr⟩ := encodedFields i
  rw [decode, if_neg (not_not_intro hrsv), hop, Op.ofCode_code, hfmt]
  exact hinstr

namespace Machine

theorem issue_of_decode_ok {c : Word32} {i : Instr} (h : decode c = .ok i) (s : State) : issue c s = exec i s := by
  simp only [issue, h]

theorem issue_of_decode_error {c : Word32} {r : DecodeReject} (h : decode c = .error r) (s : State) :
    issue c s = .next (s.raise (rejectError r)) := by
  simp only [issue, h]

theorem perform_writeCmd (c : Word32) (s : State) : perform (.writeReg 0x0C c) s = issue c s := rfl

/-- Settles O4: the step takes the event off the list, and the write to CMD issues the word. -/
theorem stepRunsTheDecodedCommand : Obligations.StepRunsTheDecodedCommand := by
  unfold Obligations.StepRunsTheDecodedCommand
  intro s c rest
  refine ⟨step_of_idle, fun e he => step_of_pending he, fun hcmd => ?_⟩
  rw [step_of_pending hcmd, perform_writeCmd]
  exact ⟨fun i hi => issue_of_decode_ok hi _, fun r hr => issue_of_decode_error hr _⟩

/-- Settles O5: the placed word is the encoding, whole, and decodes to the instruction. -/
theorem placedWordRunsTheEncodedInstruction : Obligations.PlacedWordRunsTheEncodedInstruction := by
  unfold Obligations.PlacedWordRunsTheEncodedInstruction
  intro i s
  have hword : BitVec.ofNat 32 ((encode i).toNat % 2 ^ 32) = encode i := by
    rw [Nat.mod_eq_of_lt (encode i).isLt, BitVec.ofNat_toNat, BitVec.setWidth_eq]
  have hpending : (s.withFetchWord 32 (encode i).toNat).pending = .writeReg 0x0C (encode i) :: s.pending := by
    rw [State.withFetchWord, State.setPending_pending, hword]
    rfl
  rw [step_of_pending hpending, perform_writeCmd, issue_of_decode_ok (decode_encode i)]
  rfl

end Machine
end Sys2Proof

/-! O6, O7 and O11: the register space (10_state.md R22 to R34) and its values after reset (R36). -/

namespace Sys2Proof.Machine

open Sys2Proof

/-! ### Reserved offsets -/

theorem hostWriteReg_reserved {offset : Nat} (h : regAt offset = none) (v : Word32) (s : State) :
    hostWriteReg offset v s = .next s := by
  simp only [hostWriteReg, h]

theorem hostReadReg_reserved {offset : Nat} (h : regAt offset = none) (s : State) : s.hostReadReg offset = 0 := by
  simp only [State.hostReadReg, h]

/-- Settles O7: no register stands at such an offset. -/
theorem reservedOffsetsReadZeroAndIgnoreWrites : Obligations.ReservedOffsetsReadZeroAndIgnoreWrites := by
  unfold Obligations.ReservedOffsetsReadZeroAndIgnoreWrites
  intro s offset v h
  have hreserved := regAt_reserved h
  refine ⟨hostWriteReg_reserved hreserved v s, ?_⟩
  rw [perform, hostReadReg_reserved hreserved]
  rfl

/-! ### The registers -/

theorem hostWriteReg_regOffset {r : Reg} (h : r ≠ .cmd) (v : Word32) (s : State) :
    hostWriteReg (regOffset r) v s = .next (s.setReg r v) := by
  cases r
  case cmd => exact absurd rfl h
  all_goals rfl

theorem hostReadReg_regOffset (r : Reg) (s : State) : s.hostReadReg (regOffset r) = s.regWord r := by
  rw [State.hostReadReg, regAt_regOffset]

theorem pixelToWord_pixelOfWord (v : Word32) : pixelToWord (pixelOfWord v) = v := by
  simp only [pixelToWord, pixelOfWord]
  rw [BitVec.extractLsb'_append_extractLsb'_eq_extractLsb' (by decide),
    BitVec.extractLsb'_append_extractLsb'_eq_extractLsb' (by decide),
    BitVec.extractLsb'_append_extractLsb'_eq_extractLsb' (by decide)]
  exact BitVec.extractLsb'_eq_self

/-- The low 16 bits of a word, zero-extended, are the word with its upper bits 0. -/
theorem zeroExtend_low16 (v : Word32) : (v.extractLsb' 0 16).zeroExtend 32 = v &&& 0xFFFF := by
  apply BitVec.eq_of_toNat_eq
  have hmask : v.toNat &&& 0xFFFF = v.toNat % 2 ^ 16 := Nat.and_two_pow_sub_one_eq_mod _ 16
  calc ((v.extractLsb' 0 16).zeroExtend 32).toNat
      = v.toNat % 2 ^ 16 := by simp; omega
    _ = (v &&& 0xFFFF).toNat := hmask.symm

/-- CTRL holds the two low bits of the word (R23). -/
theorem ctrlBits_eq (v : Word32) :
    (0#30 ++ BitVec.ofBool (v.getLsbD 1) ++ BitVec.ofBool (v.getLsbD 0) : Word32) = v &&& 0x3 := by
  apply BitVec.eq_of_getLsbD_eq
  intro i hi
  have hmask : (0x3 : Word32).getLsbD i = decide (i < 2) := Nat.testBit_two_pow_sub_one 2 i
  rw [BitVec.getLsbD_and, hmask, BitVec.getLsbD_append, BitVec.getLsbD_append]
  match i with
  | 0 => simp
  | 1 => simp
  | i + 2 => simp

/-- What a register reads as after the word v is written to it, where it read as `old` before (R23 to R33). -/
def Reg.readBack (v old : Word32) : Reg → Word32
  | .ctrl => v &&& 0x3
  | .width => v &&& 0xFFFF
  | .height => v &&& 0xFFFF
  | .cmd => old
  | .status => old
  | .rawLen => v
  | .palCount => old
  | .word => v &&& 0xFFFF
  | .pixel => v

theorem regWord_setReg_same (r : Reg) (v : Word32) (s : State) :
    (s.setReg r v).regWord r = r.readBack v (s.regWord r) := by
  cases r with
  | ctrl => exact ctrlBits_eq v
  | width => exact zeroExtend_low16 v
  | height => exact zeroExtend_low16 v
  | word => exact zeroExtend_low16 v
  | pixel => exact pixelToWord_pixelOfWord v
  | cmd => rfl
  | status => rfl
  | rawLen => rfl
  | palCount => rfl

theorem regWord_setReg_other {r q : Reg} (h : q ≠ r) (v : Word32) (s : State) :
    (s.setReg r v).regWord q = s.regWord q := by
  cases r with
  | ctrl => cases q with
    | ctrl => exact absurd rfl h
    | _ => rfl
  | width => cases q with
    | width => exact absurd rfl h
    | _ => rfl
  | height => cases q with
    | height => exact absurd rfl h
    | _ => rfl
  | rawLen => cases q with
    | rawLen => exact absurd rfl h
    | _ => rfl
  | word => cases q with
    | word => exact absurd rfl h
    | _ => rfl
  | pixel => cases q with
    | pixel => exact absurd rfl h
    | _ => rfl
  | cmd => rfl
  | status => rfl
  | palCount => rfl

theorem hostReadReg_setReg_other {r : Reg} {offset : Nat} (h : offset ≠ regOffset r) (v : Word32) (s : State) :
    (s.setReg r v).hostReadReg offset = s.hostReadReg offset := by
  cases hr : regAt offset with
  | none => rw [hostReadReg_reserved hr, hostReadReg_reserved hr]
  | some q =>
    obtain rfl := regAt_some hr
    have hq : q ≠ r := fun hqr => h (congrArg regOffset hqr)
    rw [hostReadReg_regOffset, hostReadReg_regOffset, regWord_setReg_other hq]

/-- A register write changes only the fields the host can write. -/
theorem setReg_frame (r : Reg) (v : Word32) (s : State) :
    s.setReg r v = { s with
      swzEn := (s.setReg r v).swzEn, palAtStart := (s.setReg r v).palAtStart, width := (s.setReg r v).width,
      height := (s.setReg r v).height, rawLen := (s.setReg r v).rawLen, word := (s.setReg r v).word,
      pixel := (s.setReg r v).pixel } := by
  cases r <;> rfl

/-- The masks by offset are the masks by register. -/
theorem readBack_regOffset (r : Reg) (v old : Word32) :
    r.readBack v old =
      if regOffset r = 0x00 then v &&& 0x3
      else if regOffset r = 0x04 ∨ regOffset r = 0x08 ∨ regOffset r = 0x1C then v &&& 0xFFFF
      else if regOffset r = 0x14 ∨ regOffset r = 0x20 then v
      else old := by
  cases r <;> rfl

/-- Settles O6: at a register the write is `setReg`, and at a reserved offset it changes nothing. -/
theorem registerReadsBackWhatWasWritten : Obligations.RegisterReadsBackWhatWasWritten := by
  unfold Obligations.RegisterReadsBackWhatWasWritten
  intro s offset v hcmd
  cases hr : regAt offset with
  | some r =>
    obtain rfl := regAt_some hr
    have hne : r ≠ .cmd := by
      rintro rfl
      exact hcmd rfl
    refine ⟨s.setReg r v, hostWriteReg_regOffset hne v s, rfl, rfl, ?_,
      fun other ho => hostReadReg_setReg_other ho v s, setReg_frame r v s⟩
    rw [hostReadReg_regOffset, hostReadReg_regOffset, regWord_setReg_same, readBack_regOffset]
  | none =>
    have hoff (r : Reg) : offset ≠ regOffset r := by
      rintro rfl
      rw [regAt_regOffset] at hr
      cases hr
    refine ⟨s, hostWriteReg_reserved hr v s, rfl, rfl, ?_, fun _ _ => rfl, rfl⟩
    have hnamed : offset ≠ 0x00 ∧ offset ≠ 0x04 ∧ offset ≠ 0x08 ∧ offset ≠ 0x14 ∧ offset ≠ 0x1C ∧ offset ≠ 0x20 :=
      ⟨hoff .ctrl, hoff .width, hoff .height, hoff .rawLen, hoff .word, hoff .pixel⟩
    simp only [hnamed, or_self, if_false]

/-! ### Reset -/

/-- Settles O11: every register holds its value, every PAL entry is 0, and both memories are empty. -/
theorem resetHoldsTheSpecifiedValues : Obligations.ResetHoldsTheSpecifiedValues := by
  unfold Obligations.ResetHoldsTheSpecifiedValues
  have hpal (i : Nat) (hi : i < 256) : State.reset.pal[i]? = some 0 := by
    rw [Vector.getElem?_eq_getElem hi, State.reset, Vector.getElem_replicate]
  exact ⟨rfl, rfl, rfl, rfl, rfl, rfl, rfl, hpal, rfl, rfl, Memory.read_nil, Memory.read_nil⟩

end Sys2Proof.Machine

/-! O8, O9 and O10: host access to RAW, SURF and PAL (20_memory.md R41 to R43, R49). Each access has one equation
inside its memory and one beyond it; the statements put these together with what one write changes. -/

namespace Sys2Proof.Machine

open Sys2Proof

/-! ### One written address of a memory -/

theorem Memory.read_write_same {α : Type} (m : Memory α) (a : Nat) (v : α) : (m.write a v).read a = some v := by
  rw [Memory.read_write, if_pos rfl]

theorem Memory.read_write_other {α : Type} {a b : Nat} (h : b ≠ a) (m : Memory α) (v : α) :
    (m.write a v).read b = m.read b := by
  rw [Memory.read_write, if_neg h]

/-! ### RAW -/

theorem hostReadRaw_of_lt {s : State} {a : Nat} (h : a < s.rawCap) : s.hostReadRaw a = s.rawByte a := if_pos h

theorem hostReadRaw_of_le {s : State} {a : Nat} (h : s.rawCap ≤ a) : s.hostReadRaw a = 0 :=
  if_neg (Nat.not_lt.mpr h)

/-- Settles O8: below RAW_CAP the accesses are a write and a read of the memory, beyond it they are nothing and 0. -/
theorem hostAccessToRaw : Obligations.HostAccessToRaw := by
  unfold Obligations.HostAccessToRaw
  intro s a v
  refine ⟨fun ha => ⟨s.hostWriteRaw a v, rfl, ?_⟩, fun ha => ?_, fun ha => ⟨?_, ?_⟩⟩
  · rw [hostWriteRaw_of_lt ha]
    exact ⟨rfl, Memory.read_write_same s.raw a v, fun _ hb => Memory.read_write_other hb s.raw v⟩
  · rw [perform, hostReadRaw_of_lt ha, State.respond]
  · rw [perform, hostWriteRaw_of_le ha]
  · rw [perform, hostReadRaw_of_le ha, State.respond]

/-! ### SURF -/

theorem hostReadSurf_of_lt {s : State} {k : Nat} (h : k < s.surfCap) : s.hostReadSurf k = s.surfRead k := if_pos h

theorem hostReadSurf_of_le {s : State} {k : Nat} (h : s.surfCap ≤ k) : s.hostReadSurf k = ⟨0, 0, 0, 0⟩ :=
  if_neg (Nat.not_lt.mpr h)

/-- The four bytes of the PIXEL layout are the pixel's channels (R41). -/
theorem pixelOfWord_pixelToWord (p : Pixel) : pixelOfWord (pixelToWord p) = p := by
  have hr : (p.r ++ p.g ++ p.b ++ p.a).extractLsb' 24 8 = p.r := by
    rw [BitVec.extractLsb'_append_eq_of_le (by decide), BitVec.extractLsb'_append_eq_of_le (by decide)]
    exact BitVec.extractLsb'_append_eq_left
  have hg : (p.r ++ p.g ++ p.b ++ p.a).extractLsb' 16 8 = p.g := by
    rw [BitVec.extractLsb'_append_eq_of_le (by decide), BitVec.extractLsb'_append_eq_of_le (by decide)]
    exact BitVec.extractLsb'_append_eq_right
  have hb : (p.r ++ p.g ++ p.b ++ p.a).extractLsb' 8 8 = p.b := by
    rw [BitVec.extractLsb'_append_eq_of_le (by decide)]
    exact BitVec.extractLsb'_append_eq_right
  have ha : (p.r ++ p.g ++ p.b ++ p.a).extractLsb' 0 8 = p.a := BitVec.extractLsb'_append_eq_right
  rw [pixelToWord, pixelOfWord, hr, hg, hb, ha]

/-- Settles O9: as for RAW, and the port word of a pixel is taken apart into its channels. -/
theorem hostAccessToSurf : Obligations.HostAccessToSurf := by
  unfold Obligations.HostAccessToSurf
  intro s k p
  have hport : pixelOfWord (HostData.pixel p).portWord = p := pixelOfWord_pixelToWord p
  refine ⟨fun hk => ⟨s.hostWriteSurf k p, rfl, ?_⟩, fun hk => ?_, fun hk => ⟨?_, ?_⟩,
    congrArg Pixel.r hport, congrArg Pixel.g hport, congrArg Pixel.b hport, congrArg Pixel.a hport⟩
  · rw [hostWriteSurf_of_lt hk]
    exact ⟨rfl, Memory.read_write_same s.surf k p, fun _ hj => Memory.read_write_other hj s.surf p⟩
  · rw [perform, hostReadSurf_of_lt hk, State.respond]
  · rw [perform, hostWriteSurf_of_le hk]
  · rw [perform, hostReadSurf_of_le hk, State.respond]

/-! ### PAL -/

theorem hostReadPal_of_le {i : Nat} (h : 256 ≤ i) (s : State) : s.hostReadPal i = 0 := palEntry_of_le h

theorem hostWritePal_of_le {i : Nat} (h : 256 ≤ i) (s : State) (v : Word16) : s.hostWritePal i v = s := by
  rw [State.hostWritePal, Vector.setIfInBounds_eq_of_size_le h]

theorem palEntry_hostWritePal_same {i : Nat} (h : i < 256) (s : State) (v : Word16) :
    palEntry (s.hostWritePal i v).pal i = v := by
  rw [State.hostWritePal, palEntry_setIfInBounds _ _ _ _ h, if_pos rfl]

theorem palEntry_hostWritePal_other {i j : Nat} (h : i < 256) (hj : j ≠ i) (s : State) (v : Word16) :
    palEntry (s.hostWritePal i v).pal j = palEntry s.pal j := by
  rw [State.hostWritePal, palEntry_setIfInBounds _ _ _ _ h, if_neg hj]

/-- Settles O10: an index of 256 or more stands in no entry, so the write leaves PAL as it is. -/
theorem hostAccessToPal : Obligations.HostAccessToPal := by
  unfold Obligations.HostAccessToPal
  intro s i v
  refine ⟨fun hi => ⟨s.hostWritePal i v, rfl, rfl, palEntry_hostWritePal_same hi s v,
    fun _ hj => palEntry_hostWritePal_other hi hj s v⟩, fun _ => rfl, fun hi => ⟨?_, ?_⟩⟩
  · rw [perform, hostWritePal_of_le hi]
  · rw [perform, hostReadPal_of_le hi, State.respond]

end Sys2Proof.Machine

/-! O2, O3 and O1: the decoder (30_encoding.md R60 to R65, R68). O2 takes a word apart into its three fields. O3 rests
on `issue_of_op`: a word with RSV = 0 and an assigned OP commits `opResult`, whether the decoder or the command itself
makes the format check (log 7); `Op.admits` says which codes that check lets through. -/

namespace Sys2Proof

/-! ### The fields of a word -/

/-- The three fields are the whole word (R60). -/
theorem append_fields (c : Word32) : rsvField c ++ fmtField c ++ opField c = c := by
  simp only [rsvField, fmtField, opField]
  rw [BitVec.extractLsb'_append_extractLsb'_eq_extractLsb' (by decide),
    BitVec.extractLsb'_append_extractLsb'_eq_extractLsb' (by decide)]
  exact BitVec.extractLsb'_eq_self

theorem commandWord_of_fields {c : Word32} {op : Op} (hrsv : rsvField c = 0) (hop : op.code = opField c) :
    commandWord op (fmtField c) = c := by
  have hfields := append_fields c
  rw [hrsv] at hfields
  rw [commandWord, hop]
  exact hfields

theorem Op.code_of_ofCode {b : Byte} {op : Op} (h : Op.ofCode b = some op) : op.code = b := by
  revert b
  cases op <;> decide

theorem Format.code_of_ofCode {fmt : FmtCode} {f : Format} (h : Format.ofCode fmt = some f) : f.code = fmt := by
  revert fmt
  cases f <;> decide

/-! ### The codes an operation admits -/

/-- The operation admits the format code (R62, column "admitted FMT"). -/
def Op.admits (op : Op) (fmt : FmtCode) : Bool :=
  match op with
  | .nop | .unpack5551 | .pack5551 => true
  | .palBuild | .palRead | .palWrite => FmtCode.indexed fmt
  | .decode | .encode | .planeDecode | .planeEncode | .swizzle => FmtCode.assigned fmt

theorem Instr.wf_eq_admits (i : Instr) : i.wf = i.op.admits i.fmt := by cases i <;> rfl

theorem Op.admits_of_ignored {op : Op} (h : op.usesFmt = false) (fmt : FmtCode) : op.admits fmt = true := by
  cases op
  case nop | unpack5551 | pack5551 => rfl
  all_goals cases h

theorem FmtCode.assigned_iff (fmt : FmtCode) : FmtCode.assigned fmt = true ↔ fmt.toNat ≤ 8 := by
  revert fmt
  decide

theorem FmtCode.indexed_iff (fmt : FmtCode) : FmtCode.indexed fmt = true ↔ 7 ≤ fmt.toNat ∧ fmt.toNat ≤ 8 := by
  revert fmt
  decide

/-- The format checks of R63: FMT at most 8, and 7 or 8 for a palette command. -/
theorem Op.admits_iff {op : Op} (h : op.usesFmt = true) (fmt : FmtCode) :
    op.admits fmt = true ↔ fmt.toNat ≤ 8 ∧ (op.code ∈ [0x20, 0x21, 0x22] → 7 ≤ fmt.toNat) := by
  have hpal : op.code ∈ [0x20, 0x21, 0x22] ↔ op ∈ [Op.palBuild, .palRead, .palWrite] := by cases op <;> decide
  rw [hpal]
  cases op
  case nop | unpack5551 | pack5551 => cases h
  case palBuild | palRead | palWrite => simp [Op.admits, FmtCode.indexed_iff, and_comm]
  case decode | encode | planeDecode | planeEncode | swizzle => simp [Op.admits, FmtCode.assigned_iff]

/-! ### The instruction of an operation and a format code -/

theorem Format.ofCode_cases (fmt : FmtCode) :
    (∃ f : Format, f.code = fmt) ∨ (Format.ofCode fmt = none ∧ FmtCode.assigned fmt = false) := by
  have hnone : ∀ fmt : FmtCode, Format.ofCode fmt = none → FmtCode.assigned fmt = false := by decide
  cases hf : Format.ofCode fmt with
  | some f => exact .inl ⟨f, Format.code_of_ofCode hf⟩
  | none => exact .inr ⟨rfl, hnone fmt hf⟩

/-- Everything the table can answer for an operation and a format code: the row of that operation and code, or, where
the rows are one per format, the rejection of a code that no row has. -/
theorem Op.toInstr_cases (op : Op) (fmt : FmtCode) :
    (∃ i, op.toInstr fmt = .ok i ∧ i.op = op ∧ i.fmt = fmt) ∨
      (op.toInstr fmt = .error .unsupportedFormat ∧ op.admits fmt = false) := by
  cases op
  case planeDecode | planeEncode =>
    rcases Format.ofCode_cases fmt with ⟨f, rfl⟩ | ⟨hnone, hunassigned⟩
    · exact .inl (by cases f <;> exact ⟨_, rfl, rfl, rfl⟩)
    · exact .inr ⟨by simp only [Op.toInstr, hnone], hunassigned⟩
  all_goals exact .inl ⟨_, rfl, rfl, rfl⟩

/-! ### Decoding by fields -/

theorem decode_of_rsv {c : Word32} (h : rsvField c ≠ 0) : decode c = .error .illegalCommand := if_pos h

theorem decode_of_unassigned {c : Word32} (hrsv : rsvField c = 0) (h : Op.ofCode (opField c) = none) :
    decode c = .error .illegalCommand := by
  rw [decode, if_neg (not_not_intro hrsv), h]

theorem decode_of_op {c : Word32} {op : Op} (hrsv : rsvField c = 0) (hop : op.code = opField c) :
    decode c = op.toInstr (fmtField c) := by
  rw [decode, if_neg (not_not_intro hrsv), ← hop, Op.ofCode_code]

/-- A word that decodes has RSV = 0, and its OP and FMT are those of the instruction. -/
theorem fields_of_decode_ok {c : Word32} {i : Instr} (h : decode c = .ok i) :
    rsvField c = 0 ∧ i.op.code = opField c ∧ i.fmt = fmtField c := by
  by_cases hrsv : rsvField c = 0
  · cases hop : Op.ofCode (opField c) with
    | none => cases (decode_of_unassigned hrsv hop).symm.trans h
    | some op =>
      have hcode := Op.code_of_ofCode hop
      rw [decode_of_op hrsv hcode] at h
      rcases Op.toInstr_cases op (fmtField c) with ⟨j, hj, hjop, hjfmt⟩ | ⟨herr, -⟩
      · cases hj.symm.trans h
        exact ⟨hrsv, hjop ▸ hcode, hjfmt⟩
      · cases herr.symm.trans h
  · cases (decode_of_rsv hrsv).symm.trans h

/-- Settles O2: the fields of a word that decodes are those of the instruction's encoding, and they are the word. -/
theorem decodeAnswersExactlyTheEncodings : Obligations.DecodeAnswersExactlyTheEncodings := by
  unfold Obligations.DecodeAnswersExactlyTheEncodings
  intro c i
  constructor
  · intro h
    obtain ⟨hrsv, hop, hfmt⟩ := fields_of_decode_ok h
    rw [encode, hfmt, commandWord_of_fields hrsv hop]
  · rintro rfl
    exact decode_encode i

/-! ### Issuing by fields -/

/-- The operations that ignore FMT, by their OP values (R62). -/
theorem Op.exists_of_ignored {b : Byte} (h : b ∈ [0x00, 0x40, 0x41]) :
    ∃ op : Op, op.code = b ∧ op.usesFmt = false := by
  have hignored : ∀ op ∈ [Op.nop, .unpack5551, .pack5551], op.usesFmt = false := by decide
  obtain ⟨op, hop, hb⟩ := List.mem_map.mp (show b ∈ [Op.nop, .unpack5551, .pack5551].map Op.code from h)
  exact ⟨op, hb, hignored op hop⟩

/-- The operations that use FMT, by their OP values (R62). -/
theorem Op.exists_of_used {b : Byte} (h : b ∈ [0x01, 0x02, 0x10, 0x11, 0x20, 0x21, 0x22, 0x30]) :
    ∃ op : Op, op.code = b ∧ op.usesFmt = true := by
  have hused : ∀ op ∈ [Op.decode, .encode, .planeDecode, .planeEncode, .palBuild, .palRead, .palWrite, .swizzle],
      op.usesFmt = true := by decide
  obtain ⟨op, hop, hb⟩ := List.mem_map.mp (show b ∈ [Op.decode, .encode, .planeDecode, .planeEncode, .palBuild,
    .palRead, .palWrite, .swizzle].map Op.code from h)
  exact ⟨op, hb, hused op hop⟩

/-- An OP value outside the table names no operation (R62). -/
theorem Op.ofCode_of_not_mem {b : Byte}
    (h : b ∉ [0x00, 0x01, 0x02, 0x10, 0x11, 0x20, 0x21, 0x22, 0x30, 0x40, 0x41]) : Op.ofCode b = none := by
  have hmem (op : Op) : op.code ∈ [0x00, 0x01, 0x02, 0x10, 0x11, 0x20, 0x21, 0x22, 0x30, 0x40, 0x41] := by
    cases op <;> decide
  cases hop : Op.ofCode b with
  | none => rfl
  | some op => exact absurd (Op.code_of_ofCode hop ▸ hmem op) h

namespace Machine

theorem opResult_of_ignored {op : Op} (h : op.usesFmt = false) (fmt fmt' : FmtCode) (s : State) :
    opResult op fmt s = opResult op fmt' s := by
  cases op
  case nop | unpack5551 | pack5551 => rfl
  all_goals cases h

theorem opResult_of_not_admits {op : Op} {fmt : FmtCode} (h : op.admits fmt = false) (s : State) :
    opResult op fmt s = .error .unsupportedFormat := by
  cases op
  case nop | unpack5551 | pack5551 => cases h
  case palBuild | palRead | palWrite =>
    have hindexed := (FmtCode.indexed_iff fmt).not.mp (Bool.eq_false_iff.mp h)
    exact withIndexed_unindexed (by omega) _
  case decode | encode | planeDecode | planeEncode | swizzle =>
    have hassigned := (FmtCode.assigned_iff fmt).not.mp (Bool.eq_false_iff.mp h)
    exact withFormat_unassigned (by omega) _

theorem issue_of_rsv {c : Word32} (h : rsvField c ≠ 0) (s : State) : issue c s = .next { s with err := 6 } :=
  issue_of_decode_error (decode_of_rsv h) s

theorem issue_of_unassigned {c : Word32} (hrsv : rsvField c = 0) (h : Op.ofCode (opField c) = none) (s : State) :
    issue c s = .next { s with err := 6 } :=
  issue_of_decode_error (decode_of_unassigned hrsv h) s

/-- A word with RSV = 0 and an assigned OP commits the result of its operation and FMT; a code that no PLANE row has
is refused by the decoder with the error its command would raise (log 7). -/
theorem issue_of_op {c : Word32} {op : Op} (hrsv : rsvField c = 0) (hop : op.code = opField c) (s : State) :
    issue c s = commit s (opResult op (fmtField c) s) := by
  have hdecode := decode_of_op hrsv hop
  rcases op.toInstr_cases (fmtField c) with ⟨i, hi, hiop, hifmt⟩ | ⟨herr, hadmits⟩
  · rw [issue_of_decode_ok (hdecode.trans hi), exec_eq_commit_opResult, hiop, hifmt]
  · rw [issue_of_decode_error (hdecode.trans herr), opResult_of_not_admits hadmits]
    rfl

theorem issue_of_not_admits {c : Word32} {op : Op} (hrsv : rsvField c = 0) (hop : op.code = opField c)
    (h : op.admits (fmtField c) = false) (s : State) : issue c s = .next { s with err := 1 } := by
  rw [issue_of_op hrsv hop, opResult_of_not_admits h]
  rfl

/-- An admitted word executes the well-formed command of its OP and FMT. -/
theorem issue_of_admits {c : Word32} {op : Op} (hrsv : rsvField c = 0) (hop : op.code = opField c)
    (h : op.admits (fmtField c) = true) (s : State) :
    ∃ i, decode c = .ok i ∧ i.wf = true ∧ i.op.code = opField c ∧ i.fmt = fmtField c ∧ issue c s = exec i s := by
  rcases op.toInstr_cases (fmtField c) with ⟨i, hi, hiop, hifmt⟩ | ⟨-, hnot⟩
  · have hdecode := (decode_of_op hrsv hop).trans hi
    refine ⟨i, hdecode, ?_, hiop ▸ hop, hifmt, issue_of_decode_ok hdecode s⟩
    rw [i.wf_eq_admits, hiop, hifmt, h]
  · cases h.symm.trans hnot

/-- Settles O3: an error clause is a code not admitted, and the words that ignore FMT commit a result that does not
depend on it. -/
theorem issueFollowsTheDecodingSteps : Obligations.IssueFollowsTheDecodingSteps := by
  unfold Obligations.IssueFollowsTheDecodingSteps
  intro c s
  refine ⟨fun hrsv => issue_of_rsv hrsv s,
    fun hrsv hmem => issue_of_unassigned hrsv (Op.ofCode_of_not_mem hmem) s, fun hrsv hmem => ?_, fun hrsv hmem => ?_⟩
  · obtain ⟨op, hop, hignored⟩ := Op.exists_of_ignored hmem
    obtain ⟨i, hi, -, hiop, -, hexec⟩ := issue_of_admits hrsv hop (Op.admits_of_ignored hignored _) s
    refine ⟨i, hi, hiop, hexec, fun d hd hdop => ?_⟩
    rw [issue_of_op hd (hop.trans hdop.symm), issue_of_op hrsv hop, opResult_of_ignored hignored]
  · obtain ⟨op, hop, hused⟩ := Op.exists_of_used hmem
    have hadmits := op.admits_iff hused (fmtField c)
    rw [hop] at hadmits
    refine ⟨fun hfmt => issue_of_not_admits hrsv hop (Bool.eq_false_iff.mpr fun h => ?_) s,
      fun _ hpal hfmt => issue_of_not_admits hrsv hop (Bool.eq_false_iff.mpr fun h => ?_) s,
      fun hfmt hpal => issue_of_admits hrsv hop (hadmits.mpr ⟨hfmt, hpal⟩) s⟩
    · exact absurd (hadmits.mp h).1 (by omega)
    · exact absurd ((hadmits.mp h).2 hpal) (by omega)

/-- Settles O1: each word of a command is its encoding, and each erring word falls under one of the error clauses of
the decoding steps. -/
theorem commandWordExamplesDecode : Obligations.CommandWordExamplesDecode := by
  unfold Obligations.CommandWordExamplesDecode
  refine ⟨decode_encode (.nop 0), decode_encode (.decode 0), decode_encode (.decode 7), decode_encode (.encode 3),
    decode_encode (.encode 7), decode_encode .planeDecodeIa4, decode_encode .planeEncodeCi8,
    decode_encode (.palBuild 8), decode_encode (.palRead 7), decode_encode (.palWrite 7), decode_encode (.swizzle 1),
    decode_encode (.unpack5551 0), decode_encode (.pack5551 0), fun s => ⟨?_, ?_, ?_, ?_⟩⟩
  · exact issue_of_not_admits (op := .decode) rfl rfl rfl s
  · exact issue_of_not_admits (op := .palBuild) rfl rfl rfl s
  · exact issue_of_unassigned rfl rfl s
  · exact issue_of_rsv (by decide) s

end Machine
end Sys2Proof

/-! O16 to O19: the Bit-Pack Codec (40_bitpack.md R80 to R85). Both directions are said once in arithmetic, channel by
channel and field by field: these equations give the effects of the two commands and the exact round trip of a word. A
pixel's round trip goes through the fields themselves: each color keeps its five top bits, which is the mask 0xF8. -/

namespace Sys2Proof.Machine

open Sys2Proof

/-! ### Appended bit fields -/

theorem append_toNat {m n : Nat} (x : BitVec m) (y : BitVec n) : (x ++ y).toNat = x.toNat * 2 ^ n + y.toNat := by
  rw [BitVec.toNat_append, ← Nat.shiftLeft_add_eq_or_of_lt y.isLt, Nat.shiftLeft_eq]

/-! ### The channels of an unpacked word -/

theorem expand5_toNat (v : BitVec 5) : (expand5 v).toNat = v.toNat * 8 := append_toNat v 0#3

/-- The channel of the five bits from `i` up (R80). -/
theorem expand5_extract_toNat (w : Word16) (i : Nat) :
    (expand5 (w.extractLsb' i 5)).toNat = w.toNat / 2 ^ i % 32 * 8 := by
  rw [expand5_toNat, BitVec.extractLsb'_toNat, Nat.shiftRight_eq_div_pow]

theorem unpack5551_r_toNat (w : Word16) : (unpack5551 w).r.toNat = w.toNat / 2 ^ 11 % 32 * 8 :=
  expand5_extract_toNat w 11

theorem unpack5551_g_toNat (w : Word16) : (unpack5551 w).g.toNat = w.toNat / 2 ^ 6 % 32 * 8 :=
  expand5_extract_toNat w 6

theorem unpack5551_b_toNat (w : Word16) : (unpack5551 w).b.toNat = w.toNat / 2 % 32 * 8 :=
  expand5_extract_toNat w 1

theorem unpack5551_a_toNat (w : Word16) : (unpack5551 w).a.toNat = if w.toNat % 2 = 1 then 255 else 0 := by
  have hbit : w.getLsbD 0 = decide (w.toNat % 2 = 1) := Nat.testBit_zero w.toNat
  simp only [unpack5551, hbit, decide_eq_true_eq, apply_ite BitVec.toNat]
  rfl

/-! ### The fields of a packed pixel -/

theorem extract_top_toNat (c : Byte) : (c.extractLsb' 3 5).toNat = c.toNat / 8 := by
  rw [BitVec.extractLsb'_toNat, Nat.shiftRight_eq_div_pow]
  omega

/-- The word of a pixel as a sum of its fields (R81). -/
theorem pack5551_toNat (p : Pixel) :
    (pack5551 p).toNat =
      p.r.toNat / 8 * 2 ^ 11 + p.g.toNat / 8 * 2 ^ 6 + p.b.toNat / 8 * 2 + (if 128 < p.a.toNat then 1 else 0) := by
  have halpha : (BitVec.ofBool (decide (128#8 < p.a))).toNat = if 128 < p.a.toNat then 1 else 0 := by
    simp [BitVec.lt_def, Bool.toNat, Bool.cond_decide]
  simp only [pack5551, append_toNat, extract_top_toNat, halpha]
  omega

/-! ### The commands -/

/-- Settles O16: the word is the encoding, and the channels are those of `unpack5551`. -/
theorem unpack5551SplitsTheWord : Obligations.Unpack5551SplitsTheWord := by
  unfold Obligations.Unpack5551SplitsTheWord
  refine ⟨fun fmt => decode_encode (.unpack5551 fmt), fun c s _ hrsv => issue_of_rsv hrsv s, fun fmt s => ?_⟩
  exact ⟨{ s with pixel := unpack5551 s.word, err := 0 }, exec_eq_commit_opResult (.unpack5551 fmt) s, rfl, rfl,
    unpack5551_r_toNat s.word, unpack5551_g_toNat s.word, unpack5551_b_toNat s.word, unpack5551_a_toNat s.word⟩

/-- Settles O17: the word is the encoding, and the result is that of `pack5551`. -/
theorem pack5551KeepsTheTopBits : Obligations.Pack5551KeepsTheTopBits := by
  unfold Obligations.Pack5551KeepsTheTopBits
  refine ⟨fun fmt => decode_encode (.pack5551 fmt), fun c s _ hrsv => issue_of_rsv hrsv s, fun fmt s => ?_⟩
  exact ⟨{ s with word := pack5551 s.pixel, err := 0 }, exec_eq_commit_opResult (.pack5551 fmt) s, rfl, rfl,
    pack5551_toNat s.pixel⟩

/-! ### The round trip through a word -/

theorem pack5551_unpack5551 (w : Word16) : pack5551 (unpack5551 w) = w := by
  apply BitVec.eq_of_toNat_eq
  rw [pack5551_toNat, unpack5551_r_toNat, unpack5551_g_toNat, unpack5551_b_toNat, unpack5551_a_toNat]
  have halpha : (if 128 < (if w.toNat % 2 = 1 then 255 else 0) then 1 else 0) = w.toNat % 2 := by
    rcases Nat.mod_two_eq_zero_or_one w.toNat with h | h <;> rw [h] <;> rfl
  rw [halpha]
  omega

/-- Settles O18: `pack5551` is a left inverse, so `unpack5551` is injective. -/
theorem wordRoundTripIsExact : Obligations.WordRoundTripIsExact := by
  unfold Obligations.WordRoundTripIsExact
  have hinverse : Function.LeftInverse pack5551 unpack5551 := pack5551_unpack5551
  exact ⟨hinverse, fun _ _ h => hinverse.injective h⟩

/-! ### The round trip through a pixel -/

/-- The mask 0xF8 clears the three low bits. -/
theorem and_0xF8_toNat (c : Byte) : (c &&& 0xF8).toNat = c.toNat / 8 * 8 := by
  have hmask : c >>> 3 <<< 3 = c &&& 0xF8 := BitVec.shiftLeft_ushiftRight
  rw [← hmask, BitVec.toNat_shiftLeft, BitVec.toNat_ushiftRight, Nat.shiftLeft_eq, Nat.shiftRight_eq_div_pow]
  omega

/-- A color that loses its low bits loses its value mod 8 (R84). -/
theorem sub_and_0xF8_toNat (c : Byte) : c.toNat - (c &&& 0xF8).toNat = c.toNat % 8 := by
  rw [and_0xF8_toNat]
  omega

theorem and_0xF8_eq_self_iff (c : Byte) : c &&& 0xF8 = c ↔ c.toNat % 8 = 0 := by
  rw [← BitVec.toNat_inj, and_0xF8_toNat]
  omega

/-- A color through its five top bits and back (R80, R81). -/
theorem expand5_top (c : Byte) : expand5 (c.extractLsb' 3 5) = c &&& 0xF8 := by
  apply BitVec.eq_of_toNat_eq
  rw [expand5_toNat, extract_top_toNat, and_0xF8_toNat]

/-- The fields of a packed word are the top bits and the alpha bit, so the pixel comes back masked (R84). -/
theorem unpack5551_pack5551 (p : Pixel) :
    unpack5551 (pack5551 p) = ⟨p.r &&& 0xF8, p.g &&& 0xF8, p.b &&& 0xF8, if 128#8 < p.a then 255 else 0⟩ := by
  have hr : (pack5551 p).extractLsb' 11 5 = p.r.extractLsb' 3 5 := by
    rw [pack5551, BitVec.extractLsb'_append_eq_of_le (by decide), BitVec.extractLsb'_append_eq_of_le (by decide)]
    exact BitVec.extractLsb'_append_eq_left
  have hg : (pack5551 p).extractLsb' 6 5 = p.g.extractLsb' 3 5 := by
    rw [pack5551, BitVec.extractLsb'_append_eq_of_le (by decide), BitVec.extractLsb'_append_eq_of_le (by decide)]
    exact BitVec.extractLsb'_append_eq_right
  have hb : (pack5551 p).extractLsb' 1 5 = p.b.extractLsb' 3 5 := by
    rw [pack5551, BitVec.extractLsb'_append_eq_of_le (by decide)]
    exact BitVec.extractLsb'_append_eq_right
  have ha : (pack5551 p).getLsbD 0 = decide (128#8 < p.a) := by
    rw [pack5551, BitVec.getLsbD_append]
    simp
  simp only [unpack5551, hr, hg, hb, ha, expand5_top, decide_eq_true_eq]

/-- The alphas that the alpha bit keeps (R84). -/
theorem alpha_roundTrip_eq_self_iff (a : Byte) : (if 128#8 < a then 255 else 0) = a ↔ a = 0 ∨ a = 255 := by
  split <;> bv_omega

/-- Settles O19: each color is masked with 0xF8, and the alpha is one of the two extremes. -/
theorem pixelRoundTripLosesTheLowBits : Obligations.PixelRoundTripLosesTheLowBits := by
  unfold Obligations.PixelRoundTripLosesTheLowBits
  rintro ⟨r, g, b, a⟩
  rw [unpack5551_pack5551]
  refine ⟨rfl, sub_and_0xF8_toNat r, sub_and_0xF8_toNat g, sub_and_0xF8_toNat b, fun ha => ?_, fun ha => ?_, ?_⟩
  · have hlow : ¬ 128#8 < a := Nat.not_lt.mpr ha
    rw [if_neg hlow]
    rfl
  · have hhigh : 128#8 < a := ha
    rw [if_pos hhigh]
    rfl
  · simp only [exact5551, Pixel.mk.injEq, and_0xF8_eq_self_iff, alpha_roundTrip_eq_self_iff]

end Sys2Proof.Machine

/-! O20 to O28: PLANE_DECODE (41_plane_decode.md R90 to R100). The nine commands share the body of R91, so its checks,
its effect and its frame are proved once, in `planeDecodeMeets_of_pixels`, for any format whose `planePixel` is the
pixel the claim names wherever the plane holds that pixel whole. What is left of each command is its pixel function. -/

namespace Sys2Proof.Machine

open Sys2Proof

/-! ### The branches of the common body -/

section body

variable {f : Format} {s : State}

theorem planeDecodeBody_of_oddPair (hodd : oddPair f.bpp s) : planeDecodeBody f s = .error .oddWidthUnsupported :=
  if_pos ((oddWidth_eq_true f s.imgWidth).mpr hodd)

theorem planeDecodeBody_of_not_oddPair (hodd : ¬ oddPair f.bpp s) :
    planeDecodeBody f s =
      if overCapacity s then .error .capacityExceeded
      else if s.rawLength < planeSize f.bpp s then .error .truncatedInput
      else .ok (s.writeSurf (planeDecode f (s.rawBytes 0 (planeSize f.bpp s)) s.imgPixels s.pal)) := by
  have hwidth : ¬ oddWidth f s.imgWidth = true := mt (oddWidth_eq_true f s.imgWidth).mp hodd
  rw [planeDecodeBody, if_neg hwidth, planeBytes_eq f s.imgWidth s.imgHeight hodd]
  rfl

theorem planeDecode_failsWith {e : ErrorKind} (h : planeDecodeBody f s = .error e) :
    failsWith (planeDecodeInstr f) s e.code := by
  rw [failsWith, exec_planeDecodeInstr, h, commit_error]
  rfl

/-- SURF after the pixels of a decoded plane are written (R91). -/
theorem read_writeSurf_planeDecode (f : Format) (s : State) (B : List Byte) (n : Nat) (pal : Palette) (k : Nat) :
    (s.writeSurf (planeDecode f B n pal)).surf.read k =
      if k < n then some (planePixel f B pal k) else s.surf.read k := by
  rw [State.writeSurf_surf, Memory.read_writeAll_zero, planeDecode_length, planeDecode_getElem?]
  split <;> rfl

/-! ### The plane holds every pixel whole -/

/-- An accepted geometry leaves no part of a byte over (20_memory.md R44). -/
theorem eight_mul_planeSize (hodd : ¬ oddPair f.bpp s) : 8 * planeSize f.bpp s = s.imgPixels * f.bpp := by
  apply Nat.mul_div_cancel'
  by_cases hb : f.bpp = 4
  · have heven : 2 ∣ s.imgWidth := by
      have : s.imgWidth % 2 ≠ 1 := fun h => hodd ⟨hb, h⟩
      omega
    rw [hb]
    exact Nat.mul_dvd_mul (Dvd.dvd.mul_right heven s.imgHeight) (Nat.dvd_refl 4)
  · have hbytes : 8 ∣ f.bpp := by
      rcases Format.bpp_cases f with h | h | h | h <;> omega
    exact Dvd.dvd.mul_left hbytes s.imgPixels

theorem pixel_within_planeSize (hodd : ¬ oddPair f.bpp s) {k : Nat} (hk : k < s.imgPixels) :
    (k + 1) * f.bpp ≤ 8 * planeSize f.bpp s := by
  rw [eight_mul_planeSize hodd]
  exact Nat.mul_le_mul_right f.bpp hk

end body

/-- A command of PLANE_DECODE does what R91 says, with the pixels `pix`, if its format's pixel function gives `pix`
on every plane of n bytes that holds all bits of pixel k. -/
theorem planeDecodeMeets_of_pixels (f : Format) {c : Word32} {bpp : Nat} {pix : State → Nat → Pixel}
    (hc : encode (planeDecodeInstr f) = c) (hbpp : f.bpp = bpp)
    (hpix : ∀ (s : State) (n k : Nat), (k + 1) * bpp ≤ 8 * n → planePixel f (s.rawBytes 0 n) s.pal k = pix s k) :
    planeDecodeMeets (planeDecodeInstr f) c bpp pix := by
  subst hc hbpp
  refine ⟨decode_encode _, fun s => ⟨fun hodd => ?_, fun hodd hcap => ?_, fun hodd hcap hlen => ?_,
    fun hodd hcap hlen => ?_⟩⟩
  · exact planeDecode_failsWith (planeDecodeBody_of_oddPair hodd)
  · exact planeDecode_failsWith ((planeDecodeBody_of_not_oddPair hodd).trans (if_pos hcap))
  · refine planeDecode_failsWith (e := .truncatedInput) ?_
    rw [planeDecodeBody_of_not_oddPair hodd, if_neg hcap, if_pos hlen]
  · refine ⟨(s.writeSurf (planeDecode f (s.rawBytes 0 (planeSize f.bpp s)) s.imgPixels s.pal)).succeed, ?_, rfl,
      fun k hk => ?_, fun k hk => ?_⟩
    · rw [exec_planeDecodeInstr, planeDecodeBody_of_not_oddPair hodd, if_neg hcap, if_neg (Nat.not_lt.mpr hlen),
        commit_ok]
    · rw [State.succeed_surf, read_writeSurf_planeDecode, if_pos hk, hpix s _ k (pixel_within_planeSize hodd hk)]
    · rw [State.succeed_surf, read_writeSurf_planeDecode, if_neg (Nat.not_lt.mpr hk)]

/-! ### Bytes, words and nibbles in arithmetic -/

theorem State.byteAt_plane (s : State) {n i : Nat} (h : i < n) : byteAt (s.rawBytes 0 n) i = s.rawByte i := by
  rw [State.byteAt_rawBytes s 0 n i h, Nat.zero_add]

theorem wordOfBytes_eq_ofNat (hi lo : Byte) : wordOfBytes hi lo = BitVec.ofNat 16 (256 * hi.toNat + lo.toNat) := by
  rw [← wordOfBytes_toNat, BitVec.ofNat_toNat, BitVec.setWidth_eq]

/-- The high nibble in place. -/
theorem and_0xF0_eq_ofNat (v : Byte) : v &&& 0xF0#8 = BitVec.ofNat 8 (v.toNat / 16 * 16) := by
  have hmask : v >>> 4 <<< 4 = v &&& 0xF0#8 := BitVec.shiftLeft_ushiftRight
  apply BitVec.eq_of_toNat_eq
  rw [← hmask, BitVec.toNat_shiftLeft, BitVec.toNat_ushiftRight, Nat.shiftLeft_eq, Nat.shiftRight_eq_div_pow,
    BitVec.toNat_ofNat]

/-- The low nibble shifted to the top. -/
theorem and_0x0F_shiftLeft_eq_ofNat (v : Byte) : (v &&& 0x0F#8) <<< 4 = BitVec.ofNat 8 (v.toNat % 16 * 16) := by
  have hmask : (v &&& 0x0F#8).toNat = v.toNat % 16 := Nat.and_two_pow_sub_one_eq_mod v.toNat 4
  apply BitVec.eq_of_toNat_eq
  rw [BitVec.toNat_shiftLeft, hmask, Nat.shiftLeft_eq, BitVec.toNat_ofNat]

/-- The nibble of pixel k, the high one for an even pixel (20_memory.md R45). -/
theorem nibbleAt_toNat (B : List Byte) (k : Nat) :
    (nibbleAt B k).toNat =
      if k % 2 = 0 then (byteAt B (k / 2)).toNat / 16 else (byteAt B (k / 2)).toNat % 16 := by
  have hlt := (byteAt B (k / 2)).isLt
  rw [nibbleAt, apply_ite BitVec.toNat, BitVec.extractLsb'_toNat, BitVec.extractLsb'_toNat,
    Nat.shiftRight_eq_div_pow, Nat.shiftRight_zero]
  split <;> omega

/-- The top three bits of a nibble, shifted to the top of a byte (R96). -/
theorem nibble_intensity_eq_ofNat (nib : BitVec 4) :
    (nib.extractLsb' 1 3 ++ 0#5 : Byte) = BitVec.ofNat 8 (nib.toNat / 2 * 32) := by
  apply BitVec.eq_of_toNat_eq
  rw [append_toNat, BitVec.extractLsb'_toNat, Nat.shiftRight_eq_div_pow, BitVec.toNat_ofNat, BitVec.toNat_ofNat]
  omega

theorem nibble_alphaBit (nib : BitVec 4) : nib.getLsbD 0 = decide (nib.toNat % 2 = 1) := Nat.testBit_zero nib.toNat

/-! ### The commands -/

/-- Settles O20: the four bytes of pixel k are copied. -/
theorem planeDecodeRgba32CopiesFourBytes : Obligations.PlaneDecodeRgba32CopiesFourBytes := by
  unfold Obligations.PlaneDecodeRgba32CopiesFourBytes
  refine planeDecodeMeets_of_pixels .rgba32 rfl rfl fun s n k hk => ?_
  rw [planePixel, pxRgba32, s.byteAt_plane (by omega), s.byteAt_plane (by omega), s.byteAt_plane (by omega),
    s.byteAt_plane (by omega)]

/-- Settles O21: the big-endian word of two bytes is 256 times the first plus the second. -/
theorem planeDecodeRgba16UnpacksBigEndianWords : Obligations.PlaneDecodeRgba16UnpacksBigEndianWords := by
  unfold Obligations.PlaneDecodeRgba16UnpacksBigEndianWords
  refine planeDecodeMeets_of_pixels .rgba16 rfl rfl fun s n k hk => ?_
  rw [planePixel, pxRgba16, s.byteAt_plane (by omega), s.byteAt_plane (by omega), wordOfBytes_eq_ofNat]

/-- Settles O22: masking and shifting the nibble makes a multiple of 16. -/
theorem planeDecodeI4PlacesTheNibbleHigh : Obligations.PlaneDecodeI4PlacesTheNibbleHigh := by
  unfold Obligations.PlaneDecodeI4PlacesTheNibbleHigh
  refine planeDecodeMeets_of_pixels .i4 rfl rfl fun s n k hk => ?_
  rw [planePixel, pxI4, s.byteAt_plane (by omega), and_0xF0_eq_ofNat, and_0x0F_shiftLeft_eq_ofNat,
    ← apply_ite (BitVec.ofNat 8)]

/-- Settles O23: the byte is each color. -/
theorem planeDecodeI8CopiesTheIntensity : Obligations.PlaneDecodeI8CopiesTheIntensity := by
  unfold Obligations.PlaneDecodeI8CopiesTheIntensity
  refine planeDecodeMeets_of_pixels .i8 rfl rfl fun s n k hk => ?_
  rw [planePixel, pxI8, s.byteAt_plane (by omega)]

/-- Settles O24: the nibble's value gives the intensity and the alpha bit. -/
theorem planeDecodeIa4ReadsIntensityAndAlphaBit : Obligations.PlaneDecodeIa4ReadsIntensityAndAlphaBit := by
  unfold Obligations.PlaneDecodeIa4ReadsIntensityAndAlphaBit
  refine planeDecodeMeets_of_pixels .ia4 rfl rfl fun s n k hk => ?_
  simp only [planePixel, pxIa4, nibble_intensity_eq_ofNat, nibble_alphaBit, decide_eq_true_eq, nibbleAt_toNat]
  rw [s.byteAt_plane (by omega)]

/-- Settles O25: the two nibbles of the byte, each at the top. -/
theorem planeDecodeIa8SplitsTheByte : Obligations.PlaneDecodeIa8SplitsTheByte := by
  unfold Obligations.PlaneDecodeIa8SplitsTheByte
  refine planeDecodeMeets_of_pixels .ia8 rfl rfl fun s n k hk => ?_
  rw [planePixel, pxIa8, s.byteAt_plane (by omega), and_0xF0_eq_ofNat, and_0x0F_shiftLeft_eq_ofNat]

/-- Settles O26: the first byte is each color, the second the alpha. -/
theorem planeDecodeIa16CopiesIntensityAndAlpha : Obligations.PlaneDecodeIa16CopiesIntensityAndAlpha := by
  unfold Obligations.PlaneDecodeIa16CopiesIntensityAndAlpha
  refine planeDecodeMeets_of_pixels .ia16 rfl rfl fun s n k hk => ?_
  rw [planePixel, pxIa16, s.byteAt_plane (by omega), s.byteAt_plane (by omega)]

/-- Settles O27: the palette is read at the nibble's value, whatever PAL_COUNT is. -/
theorem planeDecodeCi4LooksUpTheNibble : Obligations.PlaneDecodeCi4LooksUpTheNibble := by
  unfold Obligations.PlaneDecodeCi4LooksUpTheNibble
  refine planeDecodeMeets_of_pixels .ci4 rfl rfl fun s n k hk => ?_
  rw [planePixel, pxCi4, nibbleAt_toNat, s.byteAt_plane (by omega)]

/-- Settles O28: the palette is read at the byte's value. -/
theorem planeDecodeCi8LooksUpTheByte : Obligations.PlaneDecodeCi8LooksUpTheByte := by
  unfold Obligations.PlaneDecodeCi8LooksUpTheByte
  refine planeDecodeMeets_of_pixels .ci8 rfl rfl fun s n k hk => ?_
  rw [planePixel, pxCi8, s.byteAt_plane (by omega)]

end Sys2Proof.Machine

/-! O29 to O37: PLANE_ENCODE (42_plane_encode.md R110 to R120). The nine commands share the body of R111, so its checks,
its effect and its frame are proved once for the formats without palette, in `planeEncodeMeets_of_bytes`, and once for
the indexed ones, in `planeEncodeIndexedMeets_of_bytes`. What is left of each command is the byte j of its plane, from
where the pixels stand in a plane of whole bytes or of nibbles. -/

namespace Sys2Proof.Machine

open Sys2Proof

/-! ### The branches of the common body -/

/-- RAW and RAW_LEN after the plane of the image is written with a palette (R111). -/
def State.withPlane (s : State) (f : Format) (pal : Palette) (count : Nat) : State :=
  (s.writeRaw (planeEncode f s.image pal count)).setRawLen (planeSize f.bpp s)

theorem State.storeIfIndexed_unindexed {f : Format} (h : f.ci? = none) (s : State) (pal : Palette) (count : Nat) :
    s.storeIfIndexed f pal count = s := by
  rw [State.storeIfIndexed, h]

theorem State.storeIfIndexed_indexed (c : CIFormat) (s : State) (pal : Palette) (count : Nat) :
    s.storeIfIndexed c.format pal count = s.storePalette pal count := by
  cases c <;> rfl

theorem encodePalette_unindexed {f : Format} (h : f.ci? = none) (pal : Palette) (count : Nat) (px : List Pixel) :
    encodePalette f pal count px = .ok (pal, count) := by
  rw [encodePalette, h]

theorem encodePalette_indexed (c : CIFormat) (pal : Palette) (count : Nat) (px : List Pixel) :
    encodePalette c.format pal count px = paletteExtend pal count px c.cap := by
  cases c <;> rfl

section body

variable {f : Format} {s : State}

theorem planeEncode_failsWith {e : ErrorKind} (h : planeEncodeBody f s = .error e) :
    failsWith (planeEncodeInstr f) s e.code := by
  rw [failsWith, exec_planeEncodeInstr, h, commit_error]
  rfl

theorem planeEncodeBody_of_oddPair (hodd : oddPair f.bpp s) : planeEncodeBody f s = .error .oddWidthUnsupported :=
  if_pos ((oddWidth_eq_true f s.imgWidth).mpr hodd)

theorem oddWidth_of_not_oddPair (hodd : ¬ oddPair f.bpp s) : oddWidth f s.imgWidth = false :=
  Bool.eq_false_iff.mpr (mt (oddWidth_eq_true f s.imgWidth).mp hodd)

theorem planeEncodeBody_of_surfCap (hodd : ¬ oddPair f.bpp s) (hsurf : s.surfCap < s.imgPixels) :
    planeEncodeBody f s = .error .capacityExceeded := by
  rw [planeEncodeBody, oddWidth_of_not_oddPair hodd, if_neg Bool.false_ne_true, if_pos hsurf]

theorem planeEncodeBody_of_palette_error {e : ErrorKind} (hodd : ¬ oddPair f.bpp s) (hsurf : s.imgPixels ≤ s.surfCap)
    (hpal : encodePalette f s.pal s.paletteCount s.image = .error e) : planeEncodeBody f s = .error e := by
  rw [State.image] at hpal
  simp only [planeEncodeBody, oddWidth_of_not_oddPair hodd, Bool.false_eq_true, if_false,
    if_neg (Nat.not_lt.mpr hsurf), hpal]

theorem planeEncodeBody_of_palette_ok {pal : Palette} {count : Nat} (hodd : ¬ oddPair f.bpp s)
    (hsurf : s.imgPixels ≤ s.surfCap) (hpal : encodePalette f s.pal s.paletteCount s.image = .ok (pal, count)) :
    planeEncodeBody f s =
      if s.rawCap < planeSize f.bpp s then .error .capacityExceeded
      else .ok ((s.withPlane f pal count).storeIfIndexed f pal count) := by
  rw [State.image] at hpal
  simp only [planeEncodeBody, oddWidth_of_not_oddPair hodd, Bool.false_eq_true, if_false,
    if_neg (Nat.not_lt.mpr hsurf), hpal, planeBytes_eq f s.imgWidth s.imgHeight hodd]
  rfl

/-! ### RAW after the plane is written -/

theorem image_plane_length (hodd : ¬ oddPair f.bpp s) (pal : Palette) (count : Nat) :
    (planeEncode f s.image pal count).length = planeSize f.bpp s :=
  (planeEncode_image_length (oddWidth_of_not_oddPair hodd) pal count).trans
    (planeBytes_eq f s.imgWidth s.imgHeight hodd)

theorem read_withPlane (hodd : ¬ oddPair f.bpp s) (pal : Palette) (count a : Nat) :
    (s.withPlane f pal count).raw.read a =
      if a < planeSize f.bpp s then (planeEncode f s.image pal count)[a]? else s.raw.read a := by
  rw [State.withPlane, State.setRawLen_raw, State.writeRaw_raw, Memory.read_writeAll_zero, image_plane_length hodd]

theorem rawLength_withPlane (pal : Palette) (count : Nat) (h : planeSize f.bpp s < 2 ^ 32) :
    (s.withPlane f pal count).rawLength = planeSize f.bpp s := by
  rw [State.withPlane, State.rawLength, State.setRawLen_rawLen, BitVec.toNat_ofNat, Nat.mod_eq_of_lt h]

/-- The pixels of the image cover each byte of the plane (20_memory.md R44). -/
theorem byte_within_image {bpp j : Nat} (hj : j < planeSize bpp s) : 8 * (j + 1) ≤ s.imgPixels * bpp := by
  have : (j + 1) * 8 ≤ s.imgPixels * bpp := (Nat.le_div_iff_mul_le (by decide)).mp hj
  omega

end body

/-! ### What the commands do, given the bytes of the plane -/

/-- A command of PLANE_ENCODE of a format without palette does what R111 says, with the bytes `byteOf`, if its plane
has `byteOf s j` wherever the image covers byte j. -/
theorem planeEncodeMeets_of_bytes (f : Format) {c : Word32} {bpp : Nat} {byteOf : State → Nat → Byte}
    (hc : encode (planeEncodeInstr f) = c) (hbpp : f.bpp = bpp) (hci : f.ci? = none)
    (hbyte : ∀ (s : State) (j : Nat), 8 * (j + 1) ≤ s.imgPixels * bpp →
      (planeEncode f s.image s.pal s.paletteCount)[j]? = some (byteOf s j)) :
    planeEncodeMeets (planeEncodeInstr f) c bpp byteOf := by
  subst hc hbpp
  refine ⟨decode_encode _, fun s => ?_⟩
  have hpal := encodePalette_unindexed hci s.pal s.paletteCount s.image
  refine ⟨fun hodd => ?_, fun hodd hsurf => ?_, fun hodd hsurf hraw => ?_, fun hodd hsurf hraw => ?_⟩
  · exact planeEncode_failsWith (planeEncodeBody_of_oddPair hodd)
  · exact planeEncode_failsWith (planeEncodeBody_of_surfCap hodd hsurf)
  · exact planeEncode_failsWith ((planeEncodeBody_of_palette_ok hodd hsurf hpal).trans (if_pos hraw))
  · refine ⟨(s.withPlane f s.pal s.paletteCount).succeed, ?_, rfl, rawLength_withPlane s.pal s.paletteCount,
      fun j hj => ?_, fun a ha => ?_⟩
    · rw [exec_planeEncodeInstr, planeEncodeBody_of_palette_ok hodd hsurf hpal, if_neg (Nat.not_lt.mpr hraw),
        commit_ok, State.storeIfIndexed_unindexed hci]
    · rw [State.succeed_raw, read_withPlane hodd, if_pos hj, hbyte s j (byte_within_image hj)]
    · rw [State.succeed_raw, read_withPlane hodd, if_neg (Nat.not_lt.mpr ha)]

/-- The same for an indexed format, whose plane is encoded with the palette that paletteExtend ends with. -/
theorem planeEncodeIndexedMeets_of_bytes (ci : CIFormat) {c : Word32} {bpp cap : Nat}
    {byteOf : Palette → Nat → State → Nat → Byte} (hc : encode (planeEncodeInstr ci.format) = c)
    (hbpp : ci.format.bpp = bpp) (hcap : ci.cap = cap)
    (hbyte : ∀ (s : State) (pal : Palette) (count j : Nat),
      paletteExtend s.pal s.paletteCount s.image cap = .ok (pal, count) → 8 * (j + 1) ≤ s.imgPixels * bpp →
      (planeEncode ci.format s.image pal count)[j]? = some (byteOf pal count s j)) :
    planeEncodeIndexedMeets (planeEncodeInstr ci.format) c bpp cap byteOf := by
  subst hc hbpp hcap
  refine ⟨decode_encode _, fun s => ?_⟩
  rw [← encodePalette_indexed]
  refine ⟨fun hodd => ?_, fun hodd hsurf => ?_, fun hodd hsurf hpal => ?_, fun pal count hodd hsurf hpal hraw => ?_,
    fun pal count hodd hsurf hpal hraw => ?_⟩
  · exact planeEncode_failsWith (planeEncodeBody_of_oddPair hodd)
  · exact planeEncode_failsWith (planeEncodeBody_of_surfCap hodd hsurf)
  · exact planeEncode_failsWith (planeEncodeBody_of_palette_error hodd hsurf hpal)
  · exact planeEncode_failsWith ((planeEncodeBody_of_palette_ok hodd hsurf hpal).trans (if_pos hraw))
  · have hextend := (encodePalette_indexed ci s.pal s.paletteCount s.image).symm.trans hpal
    refine ⟨((s.withPlane ci.format pal count).storePalette pal count).succeed, ?_, rfl,
      rawLength_withPlane pal count, ?_, fun j hj => ?_, fun a ha => ?_⟩
    · rw [exec_planeEncodeInstr, planeEncodeBody_of_palette_ok hodd hsurf hpal, if_neg (Nat.not_lt.mpr hraw),
        commit_ok, State.storeIfIndexed_indexed]
    · obtain ⟨-, hcount, -⟩ := paletteExtend_ok (CIFormat.cap_le ci) hextend
      have hle := CIFormat.cap_le ci
      rw [State.paletteCount, State.succeed_palCount, State.storePalette_palCount, BitVec.toNat_ofNat]
      omega
    · rw [State.succeed_raw, State.storePalette_raw, read_withPlane hodd, if_pos hj,
        hbyte s pal count j hextend (byte_within_image hj)]
    · rw [State.succeed_raw, State.storePalette_raw, read_withPlane hodd, if_neg (Nat.not_lt.mpr ha)]

/-! ### Where the bytes of the plane come from -/

section image

variable (s : State) {j : Nat}

theorem image_getElem? {k : Nat} (hk : k < s.imgPixels) : s.image[k]? = some (s.surfRead k) := by
  rw [State.image, State.surfPixels_getElem?, if_pos hk]

/-- At n bytes a pixel, byte j is one of pixel j / n's. -/
theorem image_flatMap_getElem? {enc : Pixel → List Byte} (n : Nat) (hn : ∀ p, (enc p).length = n)
    (hj : j < s.imgPixels * n) : (s.image.flatMap enc)[j]? = (enc (s.surfRead (j / n)))[j % n]? := by
  have hk : j / n < s.imgPixels := Nat.div_lt_of_lt_mul (by rwa [Nat.mul_comm])
  rw [getElem?_flatMap_of_length enc n hn, image_getElem? s hk, Option.bind_some]

/-- At two pixels a byte, byte j has pixel 2j's nibble high and pixel 2j+1's low. -/
theorem image_packNibbles_getElem? (nib : Pixel → BitVec 4) (hj : 2 * j + 1 < s.imgPixels) :
    (packNibbles (s.image.map nib))[j]? = some (nib (s.surfRead (2 * j)) ++ nib (s.surfRead (2 * j + 1))) := by
  rw [packNibbles_getElem?, List.getElem?_map, List.getElem?_map, image_getElem? s (by omega), image_getElem? s hj]
  rfl

/-- An extended palette has the color of every image pixel at an index below its capacity (43_palette.md R131, R132). -/
theorem colorIndex_lt_cap {pal : Palette} {count k : Nat} (ci : CIFormat)
    (h : paletteExtend s.pal s.paletteCount s.image ci.cap = .ok (pal, count)) (hk : k < s.imgPixels) :
    colorIndex pal count s k < ci.cap := by
  obtain ⟨-, hcount, -, -, hcolors, -⟩ := paletteExtend_ok (CIFormat.cap_le ci) h
  have hcap := CIFormat.cap_le ci
  have hmem : s.surfRead k ∈ s.image := List.mem_of_getElem? (image_getElem? s hk)
  obtain ⟨hlt, -⟩ := paletteIndex_spec (by omega) (hcolors _ hmem)
  exact Nat.lt_of_lt_of_le hlt hcount

end image

/-! ### Words and nibbles in arithmetic -/

theorem bytesOfWord_eq_ofNat (w : Word16) :
    bytesOfWord w = [BitVec.ofNat 8 (w.toNat / 256), BitVec.ofNat 8 (w.toNat % 256)] := by
  have hhigh : w.extractLsb' 8 8 = BitVec.ofNat 8 (w.toNat / 256) :=
    congrArg (BitVec.ofNat 8) (Nat.shiftRight_eq_div_pow w.toNat 8)
  have hlow : w.extractLsb' 0 8 = BitVec.ofNat 8 (w.toNat % 256) := by
    apply BitVec.eq_of_toNat_eq
    rw [BitVec.extractLsb'_toNat, BitVec.toNat_ofNat, Nat.shiftRight_zero, Nat.mod_mod]
  rw [bytesOfWord, hhigh, hlow]

theorem nibbles_eq_ofNat (hi lo : BitVec 4) : (hi ++ lo : Byte) = BitVec.ofNat 8 (hi.toNat * 16 + lo.toNat) := by
  apply BitVec.eq_of_toNat_eq
  rw [append_toNat, BitVec.toNat_ofNat]
  omega

theorem extract_topNibble_toNat (c : Byte) : (c.extractLsb' 4 4).toNat = c.toNat / 16 := by
  rw [BitVec.extractLsb'_toNat, Nat.shiftRight_eq_div_pow]
  omega

theorem nibI4_toNat (p : Pixel) : (nibI4 p).toNat = p.r.toNat / 16 := extract_topNibble_toNat p.r

theorem nibIa4_toNat (p : Pixel) :
    (nibIa4 p).toNat = p.r.toNat / 32 * 2 + (if 128 ≤ p.a.toNat then 1 else 0) := by
  have halpha : (BitVec.ofBool (decide (128#8 ≤ p.a))).toNat = if 128 ≤ p.a.toNat then 1 else 0 := by
    simp [BitVec.le_def, Bool.toNat, Bool.cond_decide]
  rw [nibIa4, append_toNat, halpha, BitVec.extractLsb'_toNat, Nat.shiftRight_eq_div_pow]
  omega

theorem nibCi4_toNat {pal : Palette} {count : Nat} {p : Pixel} (h : paletteIndex pal count (pack5551 p) < 16) :
    (nibCi4 pal count p).toNat = paletteIndex pal count (pack5551 p) := by
  rw [nibCi4, BitVec.toNat_ofNat, Nat.mod_eq_of_lt h]

/-- The byte of enc_IA8 is the two top nibbles (R117). -/
theorem topNibbles_eq_ofNat (r a : Byte) :
    (r &&& 0xF0#8) ||| (a >>> 4) = BitVec.ofNat 8 (r.toNat / 16 * 16 + a.toNat / 16) := by
  have hlow : a.toNat / 2 ^ 4 < 2 ^ 4 := by omega
  have hmask : r >>> 4 <<< 4 = r &&& 0xF0#8 := BitVec.shiftLeft_ushiftRight
  apply BitVec.eq_of_toNat_eq
  have hhigh : (r &&& 0xF0#8).toNat = (r.toNat / 16) <<< 4 := by
    rw [← hmask, BitVec.toNat_shiftLeft, BitVec.toNat_ushiftRight, Nat.shiftLeft_eq, Nat.shiftRight_eq_div_pow,
      Nat.shiftLeft_eq]
    omega
  rw [BitVec.toNat_or, hhigh, BitVec.toNat_ushiftRight, Nat.shiftRight_eq_div_pow,
    ← Nat.shiftLeft_add_eq_or_of_lt hlow, Nat.shiftLeft_eq, BitVec.toNat_ofNat]
  omega

/-! ### The commands -/

/-- Settles O29: byte j is channel j mod 4 of pixel j / 4. -/
theorem planeEncodeRgba32WritesFourBytes : Obligations.PlaneEncodeRgba32WritesFourBytes := by
  unfold Obligations.PlaneEncodeRgba32WritesFourBytes
  refine planeEncodeMeets_of_bytes .rgba32 rfl rfl rfl fun s j hj => ?_
  rw [planeEncode, image_flatMap_getElem? s 4 (fun _ => rfl) (by omega), encRgba32]
  have hchannel : j % 4 < 4 := Nat.mod_lt j (by decide)
  interval_cases j % 4 <;> rfl

/-- Settles O30: the high byte of a word is its quotient by 256, the low byte the remainder. -/
theorem planeEncodeRgba16WritesBigEndianWords : Obligations.PlaneEncodeRgba16WritesBigEndianWords := by
  unfold Obligations.PlaneEncodeRgba16WritesBigEndianWords
  refine planeEncodeMeets_of_bytes .rgba16 rfl rfl rfl fun s j hj => ?_
  rw [planeEncode, image_flatMap_getElem? s 2 (fun _ => rfl) (by omega), encRgba16, bytesOfWord_eq_ofNat]
  rcases Nat.mod_two_eq_zero_or_one j with h | h <;> rw [h] <;> rfl

/-- Settles O31: byte j is two nibbles, each the top of a red. -/
theorem planeEncodeI4PacksTheTopNibblesOfRed : Obligations.PlaneEncodeI4PacksTheTopNibblesOfRed := by
  unfold Obligations.PlaneEncodeI4PacksTheTopNibblesOfRed
  refine planeEncodeMeets_of_bytes .i4 rfl rfl rfl fun s j hj => ?_
  rw [planeEncode, image_packNibbles_getElem? s nibI4 (by omega), nibbles_eq_ofNat, nibI4_toNat, nibI4_toNat]

/-- Settles O32: byte j is the red of pixel j. -/
theorem planeEncodeI8WritesRed : Obligations.PlaneEncodeI8WritesRed := by
  unfold Obligations.PlaneEncodeI8WritesRed
  refine planeEncodeMeets_of_bytes .i8 rfl rfl rfl fun s j hj => ?_
  rw [planeEncode, image_flatMap_getElem? s 1 (fun _ => rfl) (by omega), Nat.div_one, Nat.mod_one]
  rfl

/-- Settles O33: byte j is two nibbles, each an intensity and an alpha bit. -/
theorem planeEncodeIa4PacksIntensityAndAlphaBit : Obligations.PlaneEncodeIa4PacksIntensityAndAlphaBit := by
  unfold Obligations.PlaneEncodeIa4PacksIntensityAndAlphaBit
  refine planeEncodeMeets_of_bytes .ia4 rfl rfl rfl fun s j hj => ?_
  rw [planeEncode, image_packNibbles_getElem? s nibIa4 (by omega), nibbles_eq_ofNat, nibIa4_toNat, nibIa4_toNat]

/-- Settles O34: byte j is the top nibbles of pixel j's red and alpha. -/
theorem planeEncodeIa8CombinesTheTopNibbles : Obligations.PlaneEncodeIa8CombinesTheTopNibbles := by
  unfold Obligations.PlaneEncodeIa8CombinesTheTopNibbles
  refine planeEncodeMeets_of_bytes .ia8 rfl rfl rfl fun s j hj => ?_
  rw [planeEncode, image_flatMap_getElem? s 1 (fun _ => rfl) (by omega), Nat.div_one, Nat.mod_one, encIa8,
    topNibbles_eq_ofNat]
  rfl

/-- Settles O35: red at an even byte, alpha at an odd one. -/
theorem planeEncodeIa16WritesRedAndAlpha : Obligations.PlaneEncodeIa16WritesRedAndAlpha := by
  unfold Obligations.PlaneEncodeIa16WritesRedAndAlpha
  refine planeEncodeMeets_of_bytes .ia16 rfl rfl rfl fun s j hj => ?_
  rw [planeEncode, image_flatMap_getElem? s 2 (fun _ => rfl) (by omega), encIa16]
  rcases Nat.mod_two_eq_zero_or_one j with h | h <;> rw [h] <;> rfl

/-- Settles O36: byte j is two nibbles, each an index below 16. -/
theorem planeEncodeCi4PacksTheIndices : Obligations.PlaneEncodeCi4PacksTheIndices := by
  unfold Obligations.PlaneEncodeCi4PacksTheIndices
  refine planeEncodeIndexedMeets_of_bytes .ci4 rfl rfl rfl fun s pal count j hpal hj => ?_
  have hindex : ∀ k, k < s.imgPixels → (nibCi4 pal count (s.surfRead k)).toNat = colorIndex pal count s k :=
    fun k hk => nibCi4_toNat (colorIndex_lt_cap s .ci4 hpal hk)
  rw [CIFormat.format, planeEncode, image_packNibbles_getElem? s (nibCi4 pal count) (by omega), nibbles_eq_ofNat,
    hindex (2 * j) (by omega), hindex (2 * j + 1) (by omega)]

/-- Settles O37: byte j is the index of pixel j's color. -/
theorem planeEncodeCi8WritesTheIndices : Obligations.PlaneEncodeCi8WritesTheIndices := by
  unfold Obligations.PlaneEncodeCi8WritesTheIndices
  refine planeEncodeIndexedMeets_of_bytes .ci8 rfl rfl rfl fun s pal count j _ hj => ?_
  rw [CIFormat.format, planeEncode, image_flatMap_getElem? s 1 (fun _ => rfl) (by omega), Nat.div_one, Nat.mod_one]
  rfl

end Sys2Proof.Machine

/-! O54: a plane encode followed by a plane decode (42_plane_encode.md R121). A decode finds again the bytes or the
nibble that the encode made of pixel k; what the two pixel functions make of a pixel together is then its lossy form,
format by format. A channel masked to its top bits keeps its value exactly when the low bits are 0. -/

namespace Sys2Proof.Machine

open Sys2Proof

/-! ### A plane read where it was written -/

/-- Byte i of pixel k's n bytes. -/
theorem byteAt_flatMap {px : List Pixel} {k i j : Nat} {p : Pixel} (hp : px[k]? = some p) {enc : Pixel → List Byte}
    (n : Nat) (hn : ∀ p, (enc p).length = n) (hi : i < n) (hj : j = n * k + i) :
    byteAt (px.flatMap enc) j = byteAt (enc p) i := by
  have hdiv : j / n = k := by rw [hj, Nat.mul_add_div (by omega), Nat.div_eq_of_lt hi, Nat.add_zero]
  have hmod : j % n = i := by rw [hj, Nat.mul_add_mod, Nat.mod_eq_of_lt hi]
  rw [byteAt, List.getD_eq_getElem?_getD, getElem?_flatMap_of_length enc n hn, hdiv, hmod, hp, Option.bind_some,
    byteAt, List.getD_eq_getElem?_getD]

/-- The nibble of pixel k, where every nibble has its partner. -/
theorem nibbleAt_packNibbles {ns : List (BitVec 4)} {k : Nat} {v : BitVec 4} (heven : ns.length % 2 = 0)
    (hv : ns[k]? = some v) : nibbleAt (packNibbles ns) k = v := by
  obtain ⟨hk, -⟩ := List.getElem?_eq_some_iff.mp hv
  rcases Nat.mod_two_eq_zero_or_one k with h | h
  · have hleft : 2 * (k / 2) = k := by omega
    have hright : k + 1 < ns.length := by omega
    have hbyte : byteAt (packNibbles ns) (k / 2) = v ++ ns[k + 1] :=
      byteAt_eq_of_getElem? (by rw [packNibbles_getElem?, hleft, hv, List.getElem?_eq_getElem hright]; rfl)
    rw [nibbleAt, if_pos h, hbyte]
    exact BitVec.extractLsb'_append_eq_left
  · have hright : 2 * (k / 2) + 1 = k := by omega
    have hleft : 2 * (k / 2) < ns.length := by omega
    have hbyte : byteAt (packNibbles ns) (k / 2) = ns[2 * (k / 2)] ++ v :=
      byteAt_eq_of_getElem? (by rw [packNibbles_getElem?, hright, hv, List.getElem?_eq_getElem hleft]; rfl)
    rw [nibbleAt, if_neg (by omega), hbyte]
    exact BitVec.extractLsb'_append_eq_right

theorem nibbleAt_packNibbles_map {px : List Pixel} {k : Nat} {p : Pixel} (hp : px[k]? = some p)
    (heven : px.length % 2 = 0) (nib : Pixel → BitVec 4) : nibbleAt (packNibbles (px.map nib)) k = nib p :=
  nibbleAt_packNibbles (by rwa [List.length_map]) (by rw [List.getElem?_map, hp]; rfl)

/-- px_I4 in terms of the pixel's nibble (R94). -/
theorem pxI4_eq_nibble (B : List Byte) (k : Nat) :
    pxI4 B k =
      let i := BitVec.ofNat 8 ((nibbleAt B k).toNat * 16)
      ⟨i, i, i, 255⟩ := by
  rw [pxI4, and_0xF0_eq_ofNat, and_0x0F_shiftLeft_eq_ofNat, nibbleAt_toNat, ← apply_ite (BitVec.ofNat 8), ite_mul]

/-! ### A channel masked to its top bits -/

theorem and_0xF0_toNat (c : Byte) : (c &&& 0xF0).toNat = c.toNat / 16 * 16 := by
  have hmask : c &&& 0xF0 = BitVec.ofNat 8 (c.toNat / 16 * 16) := and_0xF0_eq_ofNat c
  rw [hmask, BitVec.toNat_ofNat]
  omega

theorem and_0xE0_toNat (c : Byte) : (c &&& 0xE0).toNat = c.toNat / 32 * 32 := by
  have hmask : c >>> 5 <<< 5 = c &&& 0xE0 := BitVec.shiftLeft_ushiftRight
  rw [← hmask, BitVec.toNat_shiftLeft, BitVec.toNat_ushiftRight, Nat.shiftLeft_eq, Nat.shiftRight_eq_div_pow]
  omega

theorem and_0xF0_eq_self_iff (c : Byte) : c &&& 0xF0 = c ↔ c.toNat % 16 = 0 := by
  rw [← BitVec.toNat_inj, and_0xF0_toNat]
  omega

theorem and_0xE0_eq_self_iff (c : Byte) : c &&& 0xE0 = c ↔ c.toNat % 32 = 0 := by
  rw [← BitVec.toNat_inj, and_0xE0_toNat]
  omega

/-! ### Each format's pixel through its bits and back -/

section pixel

variable {px : List Pixel} {k : Nat} {p : Pixel}

theorem pxI4_planeEncode (hp : px[k]? = some p) (heven : px.length % 2 = 0) :
    pxI4 (packNibbles (px.map nibI4)) k = lossy .i4 p := by
  have hred : BitVec.ofNat 8 (p.r.toNat / 16 * 16) = p.r &&& 0xF0 := (and_0xF0_eq_ofNat p.r).symm
  rw [pxI4_eq_nibble, nibbleAt_packNibbles_map hp heven, nibI4_toNat, hred]
  rfl

theorem pxIa4_planeEncode (hp : px[k]? = some p) (heven : px.length % 2 = 0) :
    pxIa4 (packNibbles (px.map nibIa4)) k = lossy .ia4 p := by
  have hred : ((nibIa4 p).extractLsb' 1 3 ++ 0#5 : Byte) = p.r &&& 0xE0 := by
    apply BitVec.eq_of_toNat_eq
    rw [nibble_intensity_eq_ofNat, nibIa4_toNat, BitVec.toNat_ofNat, and_0xE0_toNat]
    split <;> omega
  have halpha : (nibIa4 p).getLsbD 0 = decide (128#8 ≤ p.a) := by
    rw [nibIa4, BitVec.getLsbD_append]
    simp
  simp only [pxIa4, nibbleAt_packNibbles_map hp heven, hred, halpha, decide_eq_true_eq]
  rfl

theorem pxIa8_planeEncode (hp : px[k]? = some p) : pxIa8 (px.flatMap encIa8) k = lossy .ia8 p := by
  have hbyte : byteAt (px.flatMap encIa8) k = BitVec.ofNat 8 (p.r.toNat / 16 * 16 + p.a.toNat / 16) :=
    (byteAt_flatMap hp 1 (fun _ => rfl) Nat.one_pos (by omega)).trans (topNibbles_eq_ofNat p.r p.a)
  have hred : byteAt (px.flatMap encIa8) k &&& 0xF0#8 = p.r &&& 0xF0 := by
    apply BitVec.eq_of_toNat_eq
    rw [and_0xF0_eq_ofNat, hbyte, BitVec.toNat_ofNat, BitVec.toNat_ofNat, and_0xF0_toNat]
    omega
  have halpha : (byteAt (px.flatMap encIa8) k &&& 0x0F#8) <<< 4 = p.a &&& 0xF0 := by
    apply BitVec.eq_of_toNat_eq
    rw [and_0x0F_shiftLeft_eq_ofNat, hbyte, BitVec.toNat_ofNat, BitVec.toNat_ofNat, and_0xF0_toNat]
    omega
  rw [pxIa8, hred, halpha]
  rfl

/-- The nibble of enc_CI4 finds the packed color, where the palette has it among at most 16 (R119). -/
theorem palEntry_nibCi4 {pal : Palette} {count : Nat} (hcount : count ≤ 16)
    (hmem : pack5551 p ∈ palPrefix pal count) : palEntry pal (nibCi4 pal count p).toNat = pack5551 p := by
  obtain ⟨hlt, hentry⟩ := paletteIndex_spec (by omega) hmem
  rw [nibCi4_toNat (by omega), hentry]

/-- The byte of enc_CI8 finds the packed color, where the palette has it (R120). -/
theorem palEntry_encCi8 {pal : Palette} {count : Nat} (hcount : count ≤ 256)
    (hmem : pack5551 p ∈ palPrefix pal count) :
    palEntry pal (byteAt (encCi8 pal count p) 0).toNat = pack5551 p := by
  obtain ⟨hlt, hentry⟩ := paletteIndex_spec hcount hmem
  have hindex : (byteAt (encCi8 pal count p) 0).toNat = paletteIndex pal count (pack5551 p) :=
    (BitVec.toNat_ofNat _ 8).trans (Nat.mod_eq_of_lt (by omega))
  rw [hindex, hentry]

/-- Pixel k of an encoded plane decodes to its lossy form, with the palette the encode left (R121). -/
theorem planePixel_planeEncode {f : Format} {pal pal' : Palette} {n count : Nat} (hp : px[k]? = some p)
    (heven : f.bpp = 4 → px.length % 2 = 0) (hpal : encodePalette f pal n px = .ok (pal', count)) :
    planePixel f (planeEncode f px pal' count) pal' k = lossy f p := by
  have hmem : p ∈ px := List.mem_of_getElem? hp
  cases f with
  | rgba32 =>
    have hbyte : ∀ i < 4, byteAt (px.flatMap encRgba32) (4 * k + i) = byteAt (encRgba32 p) i := fun i hi =>
      byteAt_flatMap hp 4 (fun _ => rfl) hi rfl
    have hred : byteAt (px.flatMap encRgba32) (4 * k) = p.r := hbyte 0 (by decide)
    rw [planePixel, planeEncode, pxRgba32, hred, hbyte 1 (by decide), hbyte 2 (by decide), hbyte 3 (by decide)]
    rfl
  | rgba16 =>
    have hhigh : byteAt (px.flatMap encRgba16) (2 * k) = (pack5551 p).extractLsb' 8 8 :=
      byteAt_flatMap hp 2 (fun _ => rfl) (i := 0) (by decide) rfl
    have hlow : byteAt (px.flatMap encRgba16) (2 * k + 1) = (pack5551 p).extractLsb' 0 8 :=
      byteAt_flatMap hp 2 (fun _ => rfl) (by decide) rfl
    rw [planePixel, planeEncode, pxRgba16, hhigh, hlow, wordOfBytes_bytesOfWord]
    exact unpack5551_pack5551 p
  | i4 => exact pxI4_planeEncode hp (heven rfl)
  | i8 =>
    have hbyte : byteAt (px.flatMap encI8) k = p.r := byteAt_flatMap hp 1 (fun _ => rfl) Nat.one_pos (by omega)
    rw [planePixel, planeEncode, pxI8, hbyte]
    rfl
  | ia4 => exact pxIa4_planeEncode hp (heven rfl)
  | ia8 => exact pxIa8_planeEncode hp
  | ia16 =>
    have hred : byteAt (px.flatMap encIa16) (2 * k) = p.r :=
      byteAt_flatMap hp 2 (fun _ => rfl) (i := 0) (by decide) rfl
    have halpha : byteAt (px.flatMap encIa16) (2 * k + 1) = p.a :=
      byteAt_flatMap hp 2 (fun _ => rfl) (by decide) rfl
    rw [planePixel, planeEncode, pxIa16, hred, halpha]
    rfl
  | ci4 =>
    obtain ⟨-, hcount, -, -, hcolors, -⟩ := paletteExtend_ok (CIFormat.cap_le .ci4) hpal
    rw [planePixel, planeEncode, pxCi4, nibbleAt_packNibbles_map hp (heven rfl),
      palEntry_nibCi4 hcount (hcolors p hmem)]
    exact unpack5551_pack5551 p
  | ci8 =>
    obtain ⟨-, hcount, -, -, hcolors, -⟩ := paletteExtend_ok (CIFormat.cap_le .ci8) hpal
    rw [planePixel, planeEncode, pxCi8, byteAt_flatMap hp 1 (fun _ => rfl) Nat.one_pos (by omega),
      palEntry_encCi8 hcount (hcolors p hmem)]
    exact unpack5551_pack5551 p

end pixel

/-! ### The pixels a format holds exactly -/

/-- A pixel with one intensity for all colors is another one exactly when that one is gray, with that intensity. -/
theorem gray_eq_iff (i a : Byte) (p : Pixel) :
    (⟨i, i, i, a⟩ : Pixel) = p ↔ p.r = p.g ∧ p.g = p.b ∧ i = p.r ∧ a = p.a := by
  obtain ⟨r, g, b, a'⟩ := p
  rw [Pixel.mk.injEq]
  constructor
  · rintro ⟨rfl, rfl, rfl, rfl⟩
    exact ⟨rfl, rfl, rfl, rfl⟩
  · rintro ⟨hg, hb, hi, ha⟩
    exact ⟨hi, hi.trans hg, (hi.trans hg).trans hb, ha⟩

/-- The alphas that the alpha bit of IA4 keeps (R116). -/
theorem alphaIa4_eq_self_iff (a : Byte) : (if 128#8 ≤ a then 255 else 0) = a ↔ a = 0 ∨ a = 255 := by
  split <;> bv_omega

theorem through5551_eq_self_iff (p : Pixel) :
    (⟨p.r &&& 0xF8, p.g &&& 0xF8, p.b &&& 0xF8, if 128#8 < p.a then 255 else 0⟩ : Pixel) = p ↔ exact5551 p := by
  obtain ⟨r, g, b, a⟩ := p
  simp only [exact5551, Pixel.mk.injEq, and_0xF8_eq_self_iff, alpha_roundTrip_eq_self_iff]

theorem lossy_eq_self_iff (f : Format) (p : Pixel) : lossy f p = p ↔ lossless f p := by
  cases f with
  | rgba32 => exact iff_true_intro rfl
  | rgba16 => exact through5551_eq_self_iff p
  | i4 => rw [lossy, gray_eq_iff, and_0xF0_eq_self_iff, lossless, eq_comm (a := 255)]
  | i8 => rw [lossy, gray_eq_iff, eq_self, true_and, lossless, eq_comm (a := 255)]
  | ia4 => rw [lossy, gray_eq_iff, and_0xE0_eq_self_iff, alphaIa4_eq_self_iff, lossless]
  | ia8 => rw [lossy, gray_eq_iff, and_0xF0_eq_self_iff, and_0xF0_eq_self_iff, lossless]
  | ia16 => rw [lossy, gray_eq_iff, eq_self, eq_self, and_true, and_true, lossless]
  | ci4 => exact through5551_eq_self_iff p
  | ci8 => exact through5551_eq_self_iff p

/-- Settles O54: pixel by pixel, the decode gives the lossy form of what was encoded. -/
theorem planeCodecRoundTrip : Obligations.PlaneCodecRoundTrip := by
  unfold Obligations.PlaneCodecRoundTrip
  refine ⟨fun f px pal pal' n count heven hpal => ?_, lossy_eq_self_iff⟩
  apply List.ext_getElem?
  intro k
  rw [planeDecode_getElem?, List.getElem?_map]
  by_cases hk : k < px.length
  · have hp : px[k]? = some px[k] := List.getElem?_eq_getElem hk
    rw [if_pos hk, planePixel_planeEncode hp heven hpal, hp]
    rfl
  · rw [if_neg hk, List.getElem?_eq_none (Nat.le_of_not_lt hk)]
    rfl

end Sys2Proof.Machine

/-! O38 to O42: the palette manager (43_palette.md R130 to R143). `newColors` follows the recursion of the scan, so one
induction gives the entries a scan ends with: those it began with, and then the new colors. PAL_BUILD is the scan from
the empty palette. PAL_READ and PAL_WRITE share the two places of a palette and a texture beside each other
(`paletteStart`, `textureStart`). The laws of R143 follow from what the three commands do. -/

namespace Sys2Proof.Machine

open Sys2Proof

/-! ### The new colors of an image -/

@[simp] theorem newColors_nil (pal : Palette) (n : Nat) : newColors pal n [] = [] := rfl

theorem newColors_cons_of_mem {pal : Palette} {n : Nat} {p : Pixel} (h : pack5551 p ∈ palPrefix pal n)
    (px : List Pixel) : newColors pal n (p :: px) = newColors pal n px := by
  simp [newColors, h]

/-- A color that is not in the palette is the first new one; the others are new after it is appended. -/
theorem newColors_cons_of_not_mem {pal : Palette} {n : Nat} {p : Pixel} (hn : n < 256)
    (h : pack5551 p ∉ palPrefix pal n) (px : List Pixel) :
    newColors pal n (p :: px) =
      pack5551 p :: newColors (pal.setIfInBounds n (pack5551 p)) (n + 1) px := by
  have hnew (c : Word16) : (!c == pack5551 p && decide (c ∉ palPrefix pal n)) =
      decide (c ∉ palPrefix pal n ++ [pack5551 p]) := by
    rw [Bool.eq_iff_iff]
    simp [and_comm]
  simp only [newColors, palPrefix_succ_set pal n _ hn, List.map_cons]
  rw [List.filter_cons_of_pos (by simpa using h), List.eraseDups_cons, List.filter_filter]
  simp only [hnew]

/-- The empty palette lacks every color. -/
theorem newColors_zero (pal : Palette) (px : List Pixel) : newColors pal 0 px = (px.map pack5551).eraseDups := by
  simp [newColors]

/-! ### paletteExtend -/

/-- Everything the scan can do (R131): it overflows, or it appends the new colors. -/
theorem paletteScan_cases {cap n : Nat} (hcap : cap ≤ 256) (hn : n ≤ cap) (pal : Palette) (px : List Pixel) :
    (cap < n + (newColors pal n px).length ∧ paletteScan cap pal n px = .error .paletteOverflow) ∨
      (n + (newColors pal n px).length ≤ cap ∧
        ∃ pal', paletteScan cap pal n px = .ok (pal', n + (newColors pal n px).length) ∧
          palPrefix pal' (n + (newColors pal n px).length) = palPrefix pal n ++ newColors pal n px) := by
  induction px generalizing pal n with
  | nil => exact .inr ⟨hn, pal, rfl, by simp⟩
  | cons p px ih =>
    by_cases hmem : pack5551 p ∈ palPrefix pal n
    · rw [paletteScan, if_pos hmem, newColors_cons_of_mem hmem]
      exact ih hn pal
    · rcases Nat.eq_or_lt_of_le hn with rfl | hlt
      · refine .inl ⟨?_, by rw [paletteScan, if_neg hmem, if_pos rfl]⟩
        have hpos : 0 < (newColors pal n (p :: px)).length :=
          List.length_pos_of_mem (List.mem_eraseDups.mpr (by simp [hmem]) : pack5551 p ∈ _)
        omega
      · have h256 : n < 256 := Nat.lt_of_lt_of_le hlt hcap
        have hstep := ih hlt (pal.setIfInBounds n (pack5551 p))
        rw [palPrefix_succ_set pal n _ h256, List.append_assoc, List.singleton_append] at hstep
        rw [paletteScan, if_neg hmem, if_neg (Nat.ne_of_lt hlt), newColors_cons_of_not_mem h256 hmem,
          List.length_cons, Nat.add_comm _ 1, ← Nat.add_assoc]
        exact hstep

theorem paletteExtend_of_overflow {cap n : Nat} {pal : Palette} {px : List Pixel} (hcap : cap ≤ 256)
    (h : cap < n + (newColors pal n px).length) : paletteExtend pal n px cap = .error .paletteOverflow := by
  rw [paletteExtend]
  split
  · rfl
  · rcases paletteScan_cases hcap (Nat.le_of_not_lt ‹_›) pal px with ⟨-, herr⟩ | ⟨hfits, -⟩
    · exact herr
    · omega

theorem paletteExtend_of_fits {cap n : Nat} {pal : Palette} {px : List Pixel} (hcap : cap ≤ 256)
    (h : n + (newColors pal n px).length ≤ cap) :
    ∃ pal', paletteExtend pal n px cap = .ok (pal', n + (newColors pal n px).length) ∧
      palPrefix pal' (n + (newColors pal n px).length) = palPrefix pal n ++ newColors pal n px := by
  have hn : n ≤ cap := by omega
  rw [paletteExtend, if_neg (Nat.not_lt.mpr hn)]
  rcases paletteScan_cases hcap hn pal px with ⟨hover, -⟩ | ⟨-, hok⟩
  · omega
  · exact hok

/-- The entries of an extended palette from the old count on are the new colors. -/
theorem palEntry_of_palPrefix_append {pal pal' : Palette} {n i : Nat} {colors : List Word16}
    (hle : n + colors.length ≤ 256) (h : palPrefix pal' (n + colors.length) = palPrefix pal n ++ colors)
    (hi : i < colors.length) : palEntry pal' (n + i) = colors[i] := by
  have hentry := palPrefix_getElem? pal' (n + colors.length) (n + i) hle
  rw [if_pos (by omega), h, List.getElem?_append_right (by rw [palPrefix_length pal n (by omega)]; omega),
    palPrefix_length pal n (by omega), Nat.add_sub_cancel_left, List.getElem?_eq_getElem hi] at hentry
  exact (Option.some.inj hentry).symm

/-- No entry before the index holds the color (R132). -/
theorem palEntry_ne_of_lt_paletteIndex {pal : Palette} {n j : Nat} {c : Word16} (hn : n ≤ 256)
    (hj : j < paletteIndex pal n c) : palEntry pal j ≠ c := by
  have hlen : j < (palPrefix pal n).length := Nat.lt_of_lt_of_le hj List.idxOf_le_length
  have hentry : (palPrefix pal n)[j] = palEntry pal j := by
    rw [palPrefix_length pal n hn] at hlen
    rw [List.getElem_eq_iff, palPrefix_getElem? pal n j hn, if_pos hlen]
  have hbefore := List.not_of_lt_findIdx hj
  rw [hentry] at hbefore
  exact beq_eq_false_iff_ne.mp hbefore

/-- Settles O38: the scan appends the new colors or overflows, and the index of a color is the first that holds it. -/
theorem paletteExtendAppendsNewColorsInOrder : Obligations.PaletteExtendAppendsNewColorsInOrder := by
  unfold Obligations.PaletteExtendAppendsNewColorsInOrder
  intro pal n px cap hcap
  have hcap256 : cap ≤ 256 := by omega
  refine ⟨fun hover => paletteExtend_of_overflow hcap256 (by omega), fun hfits => ?_⟩
  obtain ⟨pal', hok, hlist⟩ := paletteExtend_of_fits hcap256 hfits
  obtain ⟨-, -, hbelow, habove, hcolors, -⟩ := paletteExtend_ok hcap256 hok
  have hle : n + (newColors pal n px).length ≤ 256 := Nat.le_trans hfits hcap256
  refine ⟨pal', hok, hbelow, fun i hi => palEntry_of_palPrefix_append hle hlist hi, habove, fun p hp => ?_⟩
  obtain ⟨hlt, hentry⟩ := paletteIndex_spec hle (hcolors p hp)
  exact ⟨_, rfl, hlt, hentry, fun j hj => palEntry_ne_of_lt_paletteIndex hle hj⟩

/-! ### What an instruction's result says of its run -/

theorem failsWith_of_result {i : Instr} {s : State} {e : ErrorKind} (h : commandResult i s = .error e) :
    failsWith i s e.code := by
  rw [failsWith, exec_eq_commit, h]
  rfl

theorem exec_of_result {i : Instr} {s u : State} (h : commandResult i s = .ok u) : exec i s = .next u.succeed := by
  rw [exec_eq_commit, h, commit_ok]

/-- A run that leaves the code of an error reached that error. -/
theorem result_of_failsWith {i : Instr} {s : State} {e : ErrorKind} (h : failsWith i s e.code) :
    commandResult i s = .error e := by
  rw [failsWith, exec_eq_commit] at h
  rcases commit_next h with ⟨e', he, hs⟩ | ⟨u, -, hs⟩
  · rw [he, ErrorKind.code_injective (congrArg State.err hs)]
  · exact absurd (congrArg State.err hs) e.code_ne_zero

/-- A run that leaves 0 reached no error. -/
theorem result_of_exec {i : Instr} {s t : State} (h : exec i s = .next t) (ht : t.err = 0) :
    ∃ u, commandResult i s = .ok u ∧ t = u.succeed :=
  commit_success ((exec_eq_commit i s).symm.trans h) ht

theorem withIndexed_code (c : CIFormat) (body : CIFormat → Except ErrorKind State) :
    withIndexed c.code body = body c := by
  cases c <;> rfl

theorem commandResult_palBuild (c : CIFormat) (s : State) : commandResult (.palBuild c.code) s = palBuildBody c s :=
  withIndexed_code c _

theorem commandResult_palRead (c : CIFormat) (s : State) : commandResult (.palRead c.code) s = palReadBody c s :=
  withIndexed_code c _

theorem commandResult_palWrite (c : CIFormat) (s : State) : commandResult (.palWrite c.code) s = palWriteBody c s :=
  withIndexed_code c _

theorem commandResult_encode (c : CIFormat) (s : State) :
    commandResult (.encode c.code) s = encodeBody c.format s := by
  cases c <;> rfl

/-! ### The fields of a stored palette and length -/

theorem paletteCount_storePalette {n : Nat} (h : n ≤ 256) (s : State) (pal : Palette) :
    (s.storePalette pal n).paletteCount = n := by
  rw [State.paletteCount, State.storePalette_palCount, BitVec.toNat_ofNat]
  omega

theorem rawLength_setRawLen {n : Nat} (h : n < 2 ^ 32) (s : State) : (s.setRawLen n).rawLength = n := by
  rw [State.rawLength, State.setRawLen_rawLen, BitVec.toNat_ofNat, Nat.mod_eq_of_lt h]

theorem rawLength_lt (s : State) : s.rawLength < 2 ^ 32 := s.rawLen.isLt

/-! ### PAL_BUILD -/

theorem newColors_image (s : State) : newColors palZero 0 s.image = s.distinctColors :=
  newColors_zero palZero s.image

theorem palBuildBody_of_surfCap {s : State} (h : s.surfCap < s.imgPixels) (c : CIFormat) :
    palBuildBody c s = .error .capacityExceeded := if_pos h

theorem palBuildBody_of_error {c : CIFormat} {s : State} {e : ErrorKind} (hsurf : s.imgPixels ≤ s.surfCap)
    (h : paletteExtend palZero 0 s.image c.cap = .error e) : palBuildBody c s = .error e := by
  rw [State.image] at h
  rw [palBuildBody, if_neg (Nat.not_lt.mpr hsurf), h]

theorem palBuildBody_of_ok {c : CIFormat} {s : State} {pal : Palette} {count : Nat} (hsurf : s.imgPixels ≤ s.surfCap)
    (h : paletteExtend palZero 0 s.image c.cap = .ok (pal, count)) :
    palBuildBody c s = .ok (s.storePalette pal count) := by
  rw [State.image] at h
  rw [palBuildBody, if_neg (Nat.not_lt.mpr hsurf), h]

/-- The palette of an image of few enough colors lists them, and is 0 beyond. -/
theorem paletteExtend_image {c : CIFormat} {s : State} (h : s.distinctColors.length ≤ c.cap) :
    ∃ pal, paletteExtend palZero 0 s.image c.cap = .ok (pal, s.distinctColors.length) ∧
      ∀ i, palEntry pal i = s.distinctColors.getD i 0 := by
  have hfits : 0 + (newColors palZero 0 s.image).length ≤ c.cap := by rwa [newColors_image, Nat.zero_add]
  obtain ⟨pal, hok, hlist⟩ := paletteExtend_of_fits (CIFormat.cap_le c) hfits
  obtain ⟨-, -, -, habove, -, -⟩ := paletteExtend_ok (CIFormat.cap_le c) hok
  rw [newColors_image] at hok hlist habove
  refine ⟨pal, Nat.zero_add s.distinctColors.length ▸ hok, fun i => ?_⟩
  have hcap := CIFormat.cap_le c
  by_cases hi : i < s.distinctColors.length
  · have hentry := palEntry_of_palPrefix_append (by omega) hlist hi
    rw [List.getD_eq_getElem _ _ hi, ← hentry, Nat.zero_add]
  · rw [List.getD_eq_default _ _ (by omega), habove i (by omega), palEntry_zero]

/-- Settles O39: the image's colors are the new colors of the empty palette. -/
theorem palBuildListsTheDistinctColors : Obligations.PalBuildListsTheDistinctColors := by
  unfold Obligations.PalBuildListsTheDistinctColors
  refine ⟨fun fmt => decode_encode (.palBuild fmt),
    fun fmt s hfmt => failsWith_of_result (e := .unsupportedFormat) (withIndexed_unindexed hfmt _), fun c s => ?_⟩
  have hresult := commandResult_palBuild c s
  refine ⟨fun hsurf => ?_, fun hsurf hover => ?_, fun hsurf hfits => ?_⟩
  · exact failsWith_of_result (hresult.trans (palBuildBody_of_surfCap hsurf c))
  · have herr : paletteExtend palZero 0 s.image c.cap = .error .paletteOverflow :=
      paletteExtend_of_overflow (CIFormat.cap_le c) (by rwa [newColors_image, Nat.zero_add])
    exact failsWith_of_result (hresult.trans (palBuildBody_of_error hsurf herr))
  · obtain ⟨pal, hok, hentries⟩ := paletteExtend_image hfits
    exact ⟨_, exec_of_result (hresult.trans (palBuildBody_of_ok hsurf hok)), rfl,
      paletteCount_storePalette (Nat.le_trans hfits (CIFormat.cap_le c)) s pal, hentries⟩

/-! ### A palette beside a texture -/

/-- Where a palette stands beside a texture of n bytes (20_memory.md R46). -/
def paletteStart (n : Nat) (atStart : Bool) : Nat := if atStart then 0 else n

/-- Where a texture stands beside a palette of nb bytes (20_memory.md R46). -/
def textureStart (nb : Nat) (atStart : Bool) : Nat := if atStart then nb else 0

theorem attachPalette_getElem?_palette {pb : List Byte} {i : Nat} (h : i < pb.length) (B : List Byte) (b : Bool) :
    (attachPalette pb B b)[paletteStart B.length b + i]? = pb[i]? := by
  cases b
  · exact (List.getElem?_append_right (Nat.le_add_right _ _)).trans (by rw [Nat.add_sub_cancel_left])
  · exact (List.getElem?_append_left (by simpa [paletteStart] using h)).trans (by rw [paletteStart]; simp)

theorem attachPalette_getElem?_texture {B : List Byte} {a : Nat} (h : a < B.length) (pb : List Byte) (b : Bool) :
    (attachPalette pb B b)[textureStart pb.length b + a]? = B[a]? := by
  cases b
  · exact (List.getElem?_append_left (by simpa [textureStart] using h)).trans (by rw [textureStart]; simp)
  · exact (List.getElem?_append_right (Nat.le_add_right _ _)).trans (by rw [Nat.add_sub_cancel_left])

/-- The two parts of RAW that splitPalette takes apart (43_palette.md R135). -/
theorem splitPalette_rawBytes {s : State} {n nb : Nat} (h : nb ≤ n) (b : Bool) :
    splitPalette (s.rawBytes 0 n) nb b =
      .ok (s.rawBytes (paletteStart (n - nb) b) (paletteStart (n - nb) b + nb),
        s.rawBytes (textureStart nb b) (textureStart nb b + (n - nb))) := by
  have hlen : (s.rawBytes 0 n).length = n := by simp
  rw [splitPalette, hlen, if_neg (Nat.not_lt.mpr h)]
  cases b
  · simp only [Bool.false_eq_true, if_false, paletteStart, textureStart, Nat.zero_add, Nat.sub_add_cancel h,
      State.slice_rawBytes s n _ _ (Nat.le_refl n), State.slice_rawBytes s n _ _ (Nat.sub_le n nb)]
  · simp only [if_true, paletteStart, textureStart, Nat.zero_add, Nat.add_sub_cancel' h,
      State.slice_rawBytes s n _ _ (Nat.le_refl n), State.slice_rawBytes s n _ _ h]

/-! ### PAL_READ -/

/-- Where the palette begins in a RAW of s's length. -/
def State.paletteAt (s : State) (c : CIFormat) : Nat := paletteStart (s.rawLength - 2 * c.cap) s.palAtStart

/-- Where the bytes besides the palette begin. -/
def State.textureAt (s : State) (c : CIFormat) : Nat := textureStart (2 * c.cap) s.palAtStart

/-- The palette PAL_READ loads. -/
def State.loadedPalette (s : State) (c : CIFormat) : Palette :=
  paletteParse (s.rawBytes (s.paletteAt c) (s.paletteAt c + 2 * c.cap)) c.cap

/-- The bytes PAL_READ leaves. -/
def State.bareTexture (s : State) (c : CIFormat) : List Byte :=
  s.rawBytes (s.textureAt c) (s.textureAt c + (s.rawLength - 2 * c.cap))

theorem palReadBody_of_rawCap {s : State} (h : s.rawCap < s.rawLength) (c : CIFormat) :
    palReadBody c s = .error .capacityExceeded := if_pos h

theorem palReadBody_of_short {c : CIFormat} {s : State} (hraw : s.rawLength ≤ s.rawCap)
    (hlen : s.rawLength < 2 * c.cap) : palReadBody c s = .error .malformedPalette := by
  have hsplit : splitPalette (s.rawBytes 0 s.rawLength) c.paletteSize s.palAtStart = .error .malformedPalette :=
    if_pos (by rwa [State.rawBytes_length])
  rw [palReadBody, if_neg (Nat.not_lt.mpr hraw), hsplit]

theorem palReadBody_of_fits {c : CIFormat} {s : State} (hraw : s.rawLength ≤ s.rawCap)
    (hlen : 2 * c.cap ≤ s.rawLength) :
    palReadBody c s = .ok (((s.storePalette (s.loadedPalette c) c.cap).writeRaw (s.bareTexture c)).setRawLen
      (s.rawLength - 2 * c.cap)) := by
  have hsplit := splitPalette_rawBytes (s := s) hlen s.palAtStart
  rw [← CIFormat.paletteSize_eq] at hsplit
  rw [palReadBody, if_neg (Nat.not_lt.mpr hraw), hsplit]
  rfl

theorem palEntry_loadedPalette (s : State) (c : CIFormat) (i : Nat) :
    palEntry (s.loadedPalette c) i =
      if i < c.cap then
        BitVec.ofNat 16 (256 * (s.rawByte (s.paletteAt c + 2 * i)).toNat +
          (s.rawByte (s.paletteAt c + 2 * i + 1)).toNat)
      else 0 := by
  rw [State.loadedPalette, palEntry_paletteParse _ _ _ (CIFormat.cap_le c)]
  split
  · rw [State.byteAt_rawBytes s _ _ _ (by omega), State.byteAt_rawBytes s _ _ _ (by omega), wordOfBytes_eq_ofNat]
    rfl
  · rfl

/-- RAW after the bytes besides the palette are moved to its head. -/
theorem read_writeAll_bareTexture (m : Memory Byte) (s : State) (c : CIFormat) (a : Nat) :
    (m.writeAll 0 (s.bareTexture c)).read a =
      if a < s.rawLength - 2 * c.cap then some (s.rawByte (s.textureAt c + a)) else m.read a := by
  rw [Memory.read_writeAll_zero, State.bareTexture, State.rawBytes_getElem?, State.rawBytes_length,
    Nat.add_sub_cancel_left]
  split <;> rfl

/-- Settles O40: the palette and the other bytes stand at the places of R46. -/
theorem palReadLoadsAndRemovesThePalette : Obligations.PalReadLoadsAndRemovesThePalette := by
  unfold Obligations.PalReadLoadsAndRemovesThePalette
  refine ⟨fun fmt => decode_encode (.palRead fmt),
    fun fmt s hfmt => failsWith_of_result (e := .unsupportedFormat) (withIndexed_unindexed hfmt _), fun c s => ?_⟩
  have hresult := commandResult_palRead c s
  refine ⟨fun hraw => ?_, fun hraw hlen => ?_, fun hraw hlen => ?_⟩
  · exact failsWith_of_result (hresult.trans (palReadBody_of_rawCap hraw c))
  · exact failsWith_of_result (hresult.trans (palReadBody_of_short hraw hlen))
  · have hnew : s.rawLength - 2 * c.cap < 2 ^ 32 := Nat.lt_of_le_of_lt (Nat.sub_le _ _) (rawLength_lt s)
    exact ⟨_, exec_of_result (hresult.trans (palReadBody_of_fits hraw hlen)), rfl, palEntry_loadedPalette s c,
      paletteCount_storePalette (CIFormat.cap_le c) s (s.loadedPalette c),
      rawLength_setRawLen hnew ((s.storePalette (s.loadedPalette c) c.cap).writeRaw (s.bareTexture c)),
      fun a ha => (read_writeAll_bareTexture s.raw s c a).trans (if_pos ha),
      fun a ha => (read_writeAll_bareTexture s.raw s c a).trans (if_neg (Nat.not_lt.mpr ha))⟩

/-! ### PAL_WRITE -/

/-- The bytes PAL_WRITE leaves in RAW. -/
def State.paddedTexture (s : State) (c : CIFormat) : List Byte :=
  attachPalette (paletteBytes s.pal s.paletteCount c.cap) (s.rawBytes 0 s.rawLength) s.palAtStart

/-- Entry i of the padded palette, as a number. -/
def State.paddedEntry (s : State) (i : Nat) : Nat := if i < s.paletteCount then (palEntry s.pal i).toNat else 0

theorem palWriteBody_of_rawCap {s : State} (h : s.rawCap < s.rawLength) (c : CIFormat) :
    palWriteBody c s = .error .capacityExceeded := if_pos h

theorem palWriteBody_of_overflow {c : CIFormat} {s : State} (hraw : s.rawLength ≤ s.rawCap)
    (hcount : c.cap < s.paletteCount) : palWriteBody c s = .error .paletteOverflow := by
  rw [palWriteBody, if_neg (Nat.not_lt.mpr hraw), if_pos hcount]

theorem palWriteBody_of_count {c : CIFormat} {s : State} (hraw : s.rawLength ≤ s.rawCap)
    (hcount : s.paletteCount ≤ c.cap) :
    palWriteBody c s =
      if s.rawCap < s.rawLength + 2 * c.cap then .error .capacityExceeded
      else .ok ((s.writeRaw (s.paddedTexture c)).setRawLen (s.rawLength + 2 * c.cap)) := by
  rw [palWriteBody, if_neg (Nat.not_lt.mpr hraw), if_neg (Nat.not_lt.mpr hcount)]
  rfl

theorem paddedTexture_length (s : State) (c : CIFormat) : (s.paddedTexture c).length = s.rawLength + 2 * c.cap := by
  rw [State.paddedTexture, attachPalette_length, paletteBytes_length, State.rawBytes_length, Nat.sub_zero,
    Nat.add_comm]

theorem read_writeRaw_paddedTexture (s : State) (c : CIFormat) (a : Nat) :
    (s.writeRaw (s.paddedTexture c)).raw.read a =
      if a < s.rawLength + 2 * c.cap then (s.paddedTexture c)[a]? else s.raw.read a := by
  rw [State.writeRaw_raw, Memory.read_writeAll_zero, paddedTexture_length]

theorem paletteBytes_getElem?_ofNat (s : State) {c : CIFormat} {i : Nat} (h : i < c.cap) :
    (paletteBytes s.pal s.paletteCount c.cap)[2 * i]? = some (BitVec.ofNat 8 (s.paddedEntry i / 256)) ∧
      (paletteBytes s.pal s.paletteCount c.cap)[2 * i + 1]? = some (BitVec.ofNat 8 (s.paddedEntry i % 256)) := by
  have hentry : s.paddedEntry i = (if i < s.paletteCount then palEntry s.pal i else 0 : Word16).toNat := by
    rw [State.paddedEntry, apply_ite BitVec.toNat]
    rfl
  obtain ⟨hhigh, hlow⟩ := paletteBytes_getElem? s.pal s.paletteCount c.cap i h
  obtain ⟨heq, hrest⟩ := List.cons.inj
    (bytesOfWord_eq_ofNat (if i < s.paletteCount then palEntry s.pal i else 0))
  rw [hhigh, hlow, hentry, heq, (List.cons.inj hrest).1]
  exact ⟨rfl, rfl⟩

theorem paletteByte_lt (s : State) {c : CIFormat} {j : Nat} (h : j < 2 * c.cap) :
    paletteStart s.rawLength s.palAtStart + j < s.rawLength + 2 * c.cap := by
  rw [paletteStart]
  split <;> omega

theorem textureByte_lt (s : State) (c : CIFormat) {a : Nat} (h : a < s.rawLength) :
    s.textureAt c + a < s.rawLength + 2 * c.cap := by
  rw [State.textureAt, textureStart]
  split <;> omega

/-- RAW where the palette stands after PAL_WRITE. -/
theorem read_paddedTexture_palette (s : State) {c : CIFormat} {j : Nat} (h : j < 2 * c.cap) :
    (s.writeRaw (s.paddedTexture c)).raw.read (paletteStart s.rawLength s.palAtStart + j) =
      (paletteBytes s.pal s.paletteCount c.cap)[j]? := by
  have hget := attachPalette_getElem?_palette (pb := paletteBytes s.pal s.paletteCount c.cap)
    (by rwa [paletteBytes_length]) (s.rawBytes 0 s.rawLength) s.palAtStart
  rw [State.rawBytes_length, Nat.sub_zero] at hget
  rw [read_writeRaw_paddedTexture, if_pos (paletteByte_lt s h)]
  exact hget

/-- RAW where the texture stands after PAL_WRITE. -/
theorem read_paddedTexture_texture (s : State) (c : CIFormat) {a : Nat} (h : a < s.rawLength) :
    (s.writeRaw (s.paddedTexture c)).raw.read (s.textureAt c + a) = some (s.rawByte a) := by
  have hget := attachPalette_getElem?_texture (B := s.rawBytes 0 s.rawLength) (a := a)
    (by rwa [State.rawBytes_length]) (paletteBytes s.pal s.paletteCount c.cap) s.palAtStart
  rw [paletteBytes_length, State.rawBytes_getElem?, Nat.sub_zero, if_pos h, Nat.zero_add] at hget
  rw [read_writeRaw_paddedTexture, if_pos (textureByte_lt s c h)]
  exact hget

/-- Settles O41: the padded palette and the texture stand at the places of R46. -/
theorem palWriteAttachesThePaddedPalette : Obligations.PalWriteAttachesThePaddedPalette := by
  unfold Obligations.PalWriteAttachesThePaddedPalette
  refine ⟨fun fmt => decode_encode (.palWrite fmt),
    fun fmt s hfmt => failsWith_of_result (e := .unsupportedFormat) (withIndexed_unindexed hfmt _), fun c s => ?_⟩
  have hresult := commandResult_palWrite c s
  refine ⟨fun hraw => ?_, fun hraw hcount => ?_, fun hraw hcount hout => ?_, fun hcount hout => ?_⟩
  · exact failsWith_of_result (hresult.trans (palWriteBody_of_rawCap hraw c))
  · exact failsWith_of_result (hresult.trans (palWriteBody_of_overflow hraw hcount))
  · exact failsWith_of_result (hresult.trans ((palWriteBody_of_count hraw hcount).trans (if_pos hout)))
  · have hok := (palWriteBody_of_count (by omega) hcount).trans (if_neg (Nat.not_lt.mpr hout))
    refine ⟨_, exec_of_result (hresult.trans hok), rfl,
      fun hlen => rawLength_setRawLen hlen (s.writeRaw (s.paddedTexture c)), fun i hi => ?_,
      fun a ha => read_paddedTexture_texture s c ha,
      fun a ha => (read_writeRaw_paddedTexture s c a).trans (if_neg (Nat.not_lt.mpr ha))⟩
    obtain ⟨hhigh, hlow⟩ := paletteBytes_getElem?_ofNat s hi
    exact ⟨(read_paddedTexture_palette s (by omega)).trans hhigh,
      (read_paddedTexture_palette s (by omega)).trans hlow⟩

/-! ### The laws -/

/-- Laws 1 and 3 (R143): the entries are distinct, 0 beyond the count, and every image color is found. -/
theorem palBuild_laws {c : CIFormat} {s t : State} (ht : exec (.palBuild c.code) s = .next t) (herr : t.err = 0) :
    (palPrefix t.pal t.paletteCount).Nodup ∧ (∀ i, t.paletteCount ≤ i → palEntry t.pal i = 0) ∧
      ∀ p ∈ s.image, palEntry t.pal (paletteIndex t.pal t.paletteCount (pack5551 p)) = pack5551 p := by
  obtain ⟨u, hu, rfl⟩ := result_of_exec ht herr
  obtain ⟨-, pal, count, hpal, rfl⟩ := palBuildBody_ok ((commandResult_palBuild c s).symm.trans hu)
  obtain ⟨-, hcount, -, habove, hcolors, hnodup⟩ := paletteExtend_ok (CIFormat.cap_le c) hpal
  have hle : count ≤ 256 := Nat.le_trans hcount (CIFormat.cap_le c)
  have hstored : (s.storePalette pal count).succeed.paletteCount = count := paletteCount_storePalette hle s pal
  rw [hstored]
  refine ⟨hnodup (by simp), fun i hi => (habove i hi).trans (palEntry_zero i), fun p hp => ?_⟩
  exact (paletteIndex_spec hle (hcolors p hp)).2

/-- The two bytes of an entry, put together again. -/
theorem ofNat_of_entryBytes (v : Nat) :
    BitVec.ofNat 16 (256 * (BitVec.ofNat 8 (v / 256)).toNat + (BitVec.ofNat 8 (v % 256)).toNat) =
      BitVec.ofNat 16 v := by
  apply BitVec.eq_of_toNat_eq
  simp only [BitVec.toNat_ofNat]
  omega

theorem ofNat_paddedEntry (s : State) (i : Nat) :
    BitVec.ofNat 16 (s.paddedEntry i) = if i < s.paletteCount then palEntry s.pal i else 0 := by
  rw [State.paddedEntry]
  split
  · rw [BitVec.ofNat_toNat, BitVec.setWidth_eq]
  · rfl

/-- Law 2 (R143), where 32 bits hold the length: PAL_READ takes away what PAL_WRITE attached. -/
theorem palRead_after_palWrite {c : CIFormat} {s t : State} (ht : exec (.palWrite c.code) s = .next t)
    (herr : t.err = 0) (hlen : s.rawLength + 2 * c.cap < 2 ^ 32) :
    ∃ u, exec (.palRead c.code) t = .next u ∧ u.err = 0 ∧ u.rawLen = s.rawLen ∧
      (∀ a, a < s.rawLength → u.rawByte a = s.rawByte a) ∧
      (∀ i, palEntry u.pal i = if i < s.paletteCount then palEntry s.pal i else 0) ∧ u.paletteCount = c.cap := by
  obtain ⟨w, hw, -⟩ := result_of_exec ht herr
  obtain ⟨hcount, hcap, -⟩ := palWriteBody_ok ((commandResult_palWrite c s).symm.trans hw)
  rw [CIFormat.paletteSize_eq] at hcap
  obtain ⟨-, -, hwrite⟩ := palWriteAttachesThePaddedPalette
  obtain ⟨-, -, -, hwrite⟩ := hwrite c s
  obtain ⟨t', ht', hframe, hlength, hpalette, htexture, -⟩ := hwrite hcount hcap
  obtain rfl := Outcome.next_inj (ht.symm.trans ht')
  have htlen : t.rawLength - 2 * c.cap = s.rawLength := by rw [hlength hlen, Nat.add_sub_cancel]
  have htcap : t.rawCap = s.rawCap := by rw [hframe]
  have htstart : t.palAtStart = s.palAtStart := by rw [hframe]
  obtain ⟨-, -, hread⟩ := palReadLoadsAndRemovesThePalette
  obtain ⟨-, -, hread⟩ := hread c t
  rw [htlen, htstart] at hread
  obtain ⟨u, hu, huframe, huentries, hucount, hulen, hubytes, -⟩ :=
    hread (by rw [htcap, hlength hlen]; exact hcap) (by rw [hlength hlen]; exact Nat.le_add_left _ _)
  refine ⟨u, hu, by rw [huframe], BitVec.eq_of_toNat_eq hulen, fun a ha => ?_, fun i => ?_, hucount⟩
  · rw [State.rawByte_of_read (hubytes a ha), State.rawByte_of_read (htexture a ha)]
  · rw [huentries]
    by_cases hi : i < c.cap
    · obtain ⟨hhigh, hlow⟩ := hpalette i hi
      rw [if_pos hi, State.rawByte_of_read hhigh, State.rawByte_of_read hlow, ofNat_of_entryBytes]
      exact ofNat_paddedEntry s i
    · rw [if_neg hi, if_neg (by omega)]

/-- Law 4 (R143): few enough colors never overflow the palette of an indexed ENCODE. -/
theorem encodeBody_ne_paletteOverflow {c : CIFormat} {s : State} (h : s.distinctColors.length ≤ c.cap) :
    encodeBody c.format s ≠ .error .paletteOverflow := by
  obtain ⟨pal, hpal, -⟩ := paletteExtend_image h
  rw [← encodePalette_indexed, State.image] at hpal
  simp only [encodeBody, hpal]
  split_ifs <;> simp

/-- Law 4 (R143) for PAL_BUILD. -/
theorem palBuildBody_ne_paletteOverflow {c : CIFormat} {s : State} (h : s.distinctColors.length ≤ c.cap) :
    palBuildBody c s ≠ .error .paletteOverflow := by
  obtain ⟨pal, hpal, -⟩ := paletteExtend_image h
  rw [State.image] at hpal
  simp only [palBuildBody, hpal]
  split_ifs <;> simp

/-- Settles O42: each law from what the commands do; PAL_READ looks where PAL_WRITE attaches. -/
theorem paletteCommandLaws : Obligations.PaletteCommandLaws := by
  unfold Obligations.PaletteCommandLaws
  refine ⟨fun c s t ht herr => ?_, fun c s t ht herr hlen => palRead_after_palWrite ht herr hlen,
    fun c s h => ⟨fun hfails => ?_, fun hfails => ?_⟩⟩
  · obtain ⟨hnodup, hzero, hfound⟩ := palBuild_laws ht herr
    exact ⟨hnodup, hzero, fun p hp => congrArg unpack5551 (hfound p hp)⟩
  · exact palBuildBody_ne_paletteOverflow h
      ((commandResult_palBuild c s).symm.trans (result_of_failsWith (e := .paletteOverflow) hfails))
  · exact encodeBody_ne_paletteOverflow h
      ((commandResult_encode c s).symm.trans (result_of_failsWith (e := .paletteOverflow) hfails))

end Sys2Proof.Machine

/-! O43 to O46: the tile swizzle (44_swizzle.md R150 to R154). A row of the output takes each byte from one column of
the same row of the input, `sourceColumn`, which is its own inverse; from that and the length of a row follow where
every byte of the output comes from, the involution, and that only a chunk-clean geometry keeps its length. -/

namespace Sys2Proof.Machine

open Sys2Proof

/-! ### One row -/

/-- The column of a row the swizzle takes column x of row y from. -/
def sourceColumn (bpp y x : Nat) : Nat :=
  if y % 2 = 0 then x
  else if x % chunkSize bpp < chunkSize bpp / 2 then x + chunkSize bpp / 2
  else x - chunkSize bpp / 2

/-- How many bytes of row y the swizzle keeps. -/
def keptBytes (bpp W y : Nat) : Nat :=
  if y % 2 = 0 then bytesPerRow bpp W else bytesPerRow bpp W - partialChunk bpp W

theorem sourceColumn_of_odd {bpp y : Nat} (hy : ¬ y % 2 = 0) (x : Nat) :
    sourceColumn bpp y x =
      if x % chunkSize bpp < chunkSize bpp / 2 then x + chunkSize bpp / 2 else x - chunkSize bpp / 2 :=
  if_neg hy

theorem sourceColumn_sourceColumn (bpp y x : Nat) : sourceColumn bpp y (sourceColumn bpp y x) = x := by
  by_cases hy : y % 2 = 0
  · rw [sourceColumn, if_pos hy, sourceColumn, if_pos hy]
  · rw [sourceColumn_of_odd hy, sourceColumn_of_odd hy]
    rcases chunkSize_cases bpp with h | h <;> rw [h] <;> split_ifs <;> omega

/-- The columns that are kept are taken from columns that are kept: a swap stays in its chunk. -/
theorem sourceColumn_lt {bpp W y x : Nat} (hx : x < keptBytes bpp W y) : sourceColumn bpp y x < keptBytes bpp W y := by
  by_cases hy : y % 2 = 0
  · rwa [sourceColumn, if_pos hy]
  · rw [keptBytes, if_neg hy, partialChunk] at hx ⊢
    rw [sourceColumn_of_odd hy]
    rcases chunkSize_cases bpp with h | h <;> rw [h] at hx ⊢ <;> split_ifs <;> omega

theorem partialChunk_le (bpp W : Nat) : partialChunk bpp W ≤ bytesPerRow bpp W := Nat.mod_le _ _

theorem wholeChunks_eq (bpp W : Nat) :
    bytesPerRow bpp W / chunkSize bpp * chunkSize bpp = bytesPerRow bpp W - partialChunk bpp W := by
  have h := Nat.div_add_mod' (bytesPerRow bpp W) (chunkSize bpp)
  rw [partialChunk]
  omega

section rows

variable {B : List Byte} {bpp W H y : Nat}

theorem swizzleRow_length_eq_keptBytes (h : (y + 1) * bytesPerRow bpp W ≤ B.length) :
    (swizzleRow B bpp W y).length = keptBytes bpp W y := by
  rw [swizzleRow_length B bpp W y h, wholeChunks_eq]
  rfl

theorem swizzleRow_getElem? (h : (y + 1) * bytesPerRow bpp W ≤ B.length) {x : Nat} (hx : x < keptBytes bpp W y) :
    (swizzleRow B bpp W y)[x]? = B[y * bytesPerRow bpp W + sourceColumn bpp y x]? := by
  have hrow : ∀ i, i < bytesPerRow bpp W →
      (slice B (y * bytesPerRow bpp W) (y * bytesPerRow bpp W + bytesPerRow bpp W))[i]? =
        B[y * bytesPerRow bpp W + i]? := by
    intro i hi
    rw [slice_getElem?, Nat.add_sub_cancel_left, if_pos hi]
  have hsource := sourceColumn_lt hx
  have hkept : keptBytes bpp W y ≤ bytesPerRow bpp W := by
    rw [keptBytes]
    split <;> omega
  rw [← hrow _ (by omega), swizzleRow]
  by_cases hy : y % 2 = 0
  · rw [if_pos hy, sourceColumn, if_pos hy]
  · have hlen : bytesPerRow bpp W ≤
        (slice B (y * bytesPerRow bpp W) (y * bytesPerRow bpp W + bytesPerRow bpp W)).length := by
      rw [Nat.succ_mul] at h
      rw [slice_length]
      omega
    rw [keptBytes, if_neg hy] at hx
    rw [if_neg hy, swapRow_getElem? bpp _ _ hlen, wholeChunks_eq, if_pos hx, sourceColumn_of_odd hy]
    split <;> rfl

/-! ### The rows together -/

/-- Each odd row loses its partial chunk (R153). -/
theorem swizzle_length_add (h : H * bytesPerRow bpp W ≤ B.length) :
    (swizzle B W H bpp).length + H / 2 * partialChunk bpp W = H * bytesPerRow bpp W := by
  induction H with
  | zero => simp
  | succ H ih =>
    have hrow := swizzleRow_length_eq_keptBytes h
    rw [Nat.succ_mul] at h
    have hrows := ih (by omega)
    rw [swizzle_succ, List.length_append, hrow, keptBytes, Nat.succ_mul]
    by_cases hy : H % 2 = 0
    · have hodd : (H + 1) / 2 = H / 2 := by omega
      rw [if_pos hy, hodd]
      omega
    · have hodd : (H + 1) / 2 = H / 2 + 1 := by omega
      have hle := partialChunk_le bpp W
      rw [if_neg hy, hodd, Nat.succ_mul]
      omega

theorem swizzle_length (h : H * bytesPerRow bpp W ≤ B.length) :
    (swizzle B W H bpp).length = H * bytesPerRow bpp W - H / 2 * partialChunk bpp W := by
  have hadd := swizzle_length_add h
  omega

/-- Row y of the output stands after the rows above it. -/
theorem swizzle_getElem?_row (hy : y < H) {x : Nat} (hx : x < (swizzleRow B bpp W y).length) :
    (swizzle B W H bpp)[(swizzle B W y bpp).length + x]? = (swizzleRow B bpp W y)[x]? := by
  induction H with
  | zero => omega
  | succ H ih =>
    rw [swizzle_succ]
    by_cases hlast : y = H
    · rw [← hlast, List.getElem?_append_right (Nat.le_add_right _ _), Nat.add_sub_cancel_left]
    · have hfound := ih (by omega)
      rw [List.getElem?_eq_getElem hx] at hfound
      obtain ⟨hlt, -⟩ := List.getElem?_eq_some_iff.mp hfound
      rw [List.getElem?_append_left hlt, hfound, List.getElem?_eq_getElem hx]

/-- Where each byte of the output comes from (R150). -/
theorem swizzle_getElem? (h : H * bytesPerRow bpp W ≤ B.length) (hy : y < H) {x : Nat}
    (hx : x < keptBytes bpp W y) :
    (swizzle B W H bpp)[y * bytesPerRow bpp W - y / 2 * partialChunk bpp W + x]? =
      B[y * bytesPerRow bpp W + sourceColumn bpp y x]? := by
  have hrow : (y + 1) * bytesPerRow bpp W ≤ B.length := Nat.le_trans (Nat.mul_le_mul_right _ hy) h
  have habove : y * bytesPerRow bpp W ≤ B.length :=
    Nat.le_trans (Nat.mul_le_mul_right _ (Nat.le_succ y)) hrow
  rw [← swizzle_length habove, swizzle_getElem?_row hy (by rwa [swizzleRow_length_eq_keptBytes hrow]),
    swizzleRow_getElem? hrow hx]

end rows

/-- Settles O44: the length row by row, and the source column of each byte. -/
theorem swizzleOutputLengthAndBytes : Obligations.SwizzleOutputLengthAndBytes := by
  unfold Obligations.SwizzleOutputLengthAndBytes
  intro B W H f h
  have hhalf : (if f.bpp = 32 then 8 else 4) = chunkSize f.bpp / 2 := by
    rw [chunkSize]
    split <;> rfl
  have hchunk : (if f.bpp = 32 then 16 else 8) = chunkSize f.bpp := rfl
  refine ⟨swizzle_length h, fun y x hy hx => ?_⟩
  rw [hhalf, hchunk]
  refine (swizzle_getElem? h hy hx).trans ?_
  by_cases heven : y % 2 = 0
  · rw [if_pos heven, sourceColumn, if_pos heven]
  · rw [if_neg heven, sourceColumn_of_odd heven]
    by_cases hleft : x % chunkSize f.bpp < chunkSize f.bpp / 2
    · rw [if_pos hleft, if_pos hleft, ← Nat.add_assoc]
    · have hle : chunkSize f.bpp / 2 ≤ x := Nat.le_trans (Nat.le_of_not_lt hleft) (Nat.mod_le _ _)
      rw [if_neg hleft, if_neg hleft, Nat.add_sub_assoc hle]

/-! ### Chunk-clean geometries -/

theorem chunkClean_iff (bpp W H : Nat) : chunkClean bpp W H = true ↔ partialChunk bpp W = 0 ∨ H ≤ 1 := by
  simp [chunkClean]

theorem chunkClean_eq_false_iff (bpp W H : Nat) : chunkClean bpp W H = false ↔ partialChunk bpp W ≠ 0 ∧ 2 ≤ H := by
  rw [← Bool.not_eq_true, chunkClean_iff]
  omega

section geometry

variable {B : List Byte} {bpp W H : Nat}

/-- In a chunk-clean geometry no row that stands there loses a byte. -/
theorem dropped_of_chunkClean (hclean : chunkClean bpp W H = true) {y : Nat} (hy : y ≤ H) :
    y / 2 * partialChunk bpp W = 0 := by
  rcases (chunkClean_iff bpp W H).mp hclean with hdrop | hone
  · rw [hdrop, Nat.mul_zero]
  · rw [Nat.div_eq_of_lt (by omega), Nat.zero_mul]

theorem keptBytes_of_chunkClean (hclean : chunkClean bpp W H = true) {y : Nat} (hy : y < H) :
    keptBytes bpp W y = bytesPerRow bpp W := by
  rw [keptBytes]
  split
  · rfl
  · rcases (chunkClean_iff bpp W H).mp hclean with hdrop | hone
    · rw [hdrop, Nat.sub_zero]
    · omega

theorem swizzle_length_of_chunkClean (h : H * bytesPerRow bpp W ≤ B.length) (hclean : chunkClean bpp W H = true) :
    (swizzle B W H bpp).length = H * bytesPerRow bpp W := by
  rw [swizzle_length h, dropped_of_chunkClean hclean (Nat.le_refl H), Nat.sub_zero]

/-- Any other geometry has an odd row that loses a byte (R153). -/
theorem swizzle_length_lt (h : H * bytesPerRow bpp W ≤ B.length) (hclean : chunkClean bpp W H = false) :
    (swizzle B W H bpp).length < H * bytesPerRow bpp W := by
  obtain ⟨hdrop, hrows⟩ := (chunkClean_eq_false_iff bpp W H).mp hclean
  have hpos : 0 < H / 2 * partialChunk bpp W := Nat.mul_pos (by omega) (Nat.pos_of_ne_zero hdrop)
  have hadd := swizzle_length_add h
  omega

theorem swizzle_getElem?_of_chunkClean (h : H * bytesPerRow bpp W ≤ B.length) (hclean : chunkClean bpp W H = true)
    {y x : Nat} (hy : y < H) (hx : x < bytesPerRow bpp W) :
    (swizzle B W H bpp)[y * bytesPerRow bpp W + x]? = B[y * bytesPerRow bpp W + sourceColumn bpp y x]? := by
  have hbyte := swizzle_getElem? h hy (by rwa [keptBytes_of_chunkClean hclean hy])
  rwa [dropped_of_chunkClean hclean (Nat.le_of_lt hy), Nat.sub_zero] at hbyte

/-- The involution law (R152): each byte returns to the column it came from. -/
theorem swizzle_swizzle (h : H * bytesPerRow bpp W ≤ B.length) (hclean : chunkClean bpp W H = true) :
    swizzle (swizzle B W H bpp) W H bpp = B.take (H * bytesPerRow bpp W) := by
  have honce := swizzle_length_of_chunkClean h hclean
  have htwice := swizzle_length_of_chunkClean (Nat.le_of_eq honce.symm) hclean
  apply List.ext_getElem?
  intro j
  rw [List.getElem?_take]
  by_cases hj : j < H * bytesPerRow bpp W
  · have hpos : 0 < bytesPerRow bpp W := Nat.pos_of_ne_zero fun h0 => by rw [h0] at hj; omega
    have hy : j / bytesPerRow bpp W < H := Nat.div_lt_of_lt_mul (by rwa [Nat.mul_comm])
    have hx : j % bytesPerRow bpp W < bytesPerRow bpp W := Nat.mod_lt j hpos
    have hkept := keptBytes_of_chunkClean hclean hy
    have hsource : sourceColumn bpp (j / bytesPerRow bpp W) (j % bytesPerRow bpp W) < bytesPerRow bpp W :=
      (sourceColumn_lt (hx.trans_eq hkept.symm)).trans_eq hkept
    rw [if_pos hj]
    conv_lhs => rw [← Nat.div_add_mod' j (bytesPerRow bpp W)]
    rw [swizzle_getElem?_of_chunkClean (Nat.le_of_eq honce.symm) hclean hy hx,
      swizzle_getElem?_of_chunkClean h hclean hy hsource, sourceColumn_sourceColumn, Nat.div_add_mod']
  · rw [if_neg hj, List.getElem?_eq_none (by omega)]

end geometry

/-- The table of R154, by the bits of a pixel. -/
theorem chunkClean_iff_width (f : Format) (W H : Nat) (heven : f.bpp = 4 → W % 2 = 0) :
    chunkClean f.bpp W H = true ↔
      H ≤ 1 ∨ (f.bpp = 32 ∧ W % 4 = 0) ∨ (f.bpp = 16 ∧ W % 4 = 0) ∨ (f.bpp = 8 ∧ W % 8 = 0) ∨
        (f.bpp = 4 ∧ W % 16 = 0) := by
  rw [chunkClean_iff, partialChunk, bytesPerRow]
  rcases Format.bpp_cases f with hb | hb | hb | hb <;> rw [hb] at heven ⊢
  · rw [show chunkSize 32 = 16 from rfl]
    omega
  · rw [show chunkSize 16 = 8 from rfl]
    omega
  · rw [show chunkSize 8 = 8 from rfl]
    omega
  · rw [show chunkSize 4 = 8 from rfl]
    omega

/-! ### The command -/

/-- What an enabled SWIZZLE leaves in RAW. -/
def State.swizzledTexture (s : State) (f : Format) : List Byte :=
  swizzle (s.rawBytes 0 (planeSize f.bpp s)) s.imgWidth s.imgHeight f.bpp

section command

variable {f : Format} {s : State}

theorem planeSize_eq_rows (hodd : ¬ oddPair f.bpp s) :
    planeSize f.bpp s = s.imgHeight * bytesPerRow f.bpp s.imgWidth :=
  (planeBytes_eq f s.imgWidth s.imgHeight hodd).symm

theorem commandResult_swizzle (f : Format) (s : State) : commandResult (.swizzle f.code) s = swizzleBody f s :=
  withFormat_code f _

theorem swizzleBody_of_disabled (hen : s.swzEn = false) (f : Format) : swizzleBody f s = .ok s := by
  rw [swizzleBody, hen]
  rfl

theorem swizzleBody_of_oddPair (hen : s.swzEn = true) (hodd : oddPair f.bpp s) :
    swizzleBody f s = .error .oddWidthUnsupported := by
  rw [swizzleBody, hen, (oddWidth_eq_true f s.imgWidth).mpr hodd]
  rfl

theorem swizzleBody_of_not_oddPair (hen : s.swzEn = true) (hodd : ¬ oddPair f.bpp s) :
    swizzleBody f s =
      if s.rawCap < s.rawLength then .error .capacityExceeded
      else if s.rawLength < planeSize f.bpp s then .error .truncatedInput
      else .ok (s.storeTexture (s.swizzledTexture f)) := by
  rw [swizzleBody, hen, oddWidth_of_not_oddPair hodd, planeBytes_eq f s.imgWidth s.imgHeight hodd]
  rfl

theorem swizzleBody_of_short (hen : s.swzEn = true) (hodd : ¬ oddPair f.bpp s) (hcap : s.rawLength ≤ s.rawCap)
    (hlen : s.rawLength < planeSize f.bpp s) : swizzleBody f s = .error .truncatedInput := by
  rw [swizzleBody_of_not_oddPair hen hodd, if_neg (Nat.not_lt.mpr hcap), if_pos hlen]

theorem swizzledTexture_length_le (hodd : ¬ oddPair f.bpp s) : (s.swizzledTexture f).length ≤ planeSize f.bpp s := by
  rw [State.swizzledTexture, planeSize_eq_rows hodd]
  exact swizzle_length_le _ _ _ _ (by simp)

theorem swizzledTexture_length_lt (hodd : ¬ oddPair f.bpp s)
    (hclean : chunkClean f.bpp s.imgWidth s.imgHeight = false) :
    (s.swizzledTexture f).length < planeSize f.bpp s := by
  rw [State.swizzledTexture, planeSize_eq_rows hodd]
  exact swizzle_length_lt (by simp) hclean

theorem rawLength_storeTexture {B : List Byte} (h : B.length < 2 ^ 32) (s : State) :
    (s.storeTexture B).rawLength = B.length :=
  rawLength_setRawLen h (s.writeRaw B)

theorem read_storeTexture (s : State) (B : List Byte) (a : Nat) :
    (s.storeTexture B).raw.read a = if a < B.length then B[a]? else s.raw.read a :=
  Memory.read_writeAll_zero s.raw B a

end command

/-- Settles O43: the checks of R151 in order, and the write of the transform. -/
theorem swizzleTransformsRawInPlace : Obligations.SwizzleTransformsRawInPlace := by
  unfold Obligations.SwizzleTransformsRawInPlace
  refine ⟨fun fmt => decode_encode (.swizzle fmt),
    fun fmt s hfmt => failsWith_of_result (e := .unsupportedFormat) (withFormat_unassigned hfmt _), fun f s => ?_⟩
  have hresult := commandResult_swizzle f s
  refine ⟨fun hen => ?_, fun hen hodd => ?_, fun hen hodd hcap => ?_, fun hen hodd hcap hlen => ?_,
    fun hen hodd hcap hlen => ?_⟩
  · exact exec_of_result (hresult.trans (swizzleBody_of_disabled hen f))
  · exact failsWith_of_result (hresult.trans (swizzleBody_of_oddPair hen hodd))
  · exact failsWith_of_result (hresult.trans ((swizzleBody_of_not_oddPair hen hodd).trans (if_pos hcap)))
  · exact failsWith_of_result (hresult.trans (swizzleBody_of_short hen hodd hcap hlen))
  · have hok : swizzleBody f s = .ok (s.storeTexture (s.swizzledTexture f)) := by
      rw [swizzleBody_of_not_oddPair hen hodd, if_neg (Nat.not_lt.mpr hcap), if_neg (Nat.not_lt.mpr hlen)]
    have hout : (s.swizzledTexture f).length < 2 ^ 32 :=
      Nat.lt_of_le_of_lt (Nat.le_trans (swizzledTexture_length_le hodd) hlen) (rawLength_lt s)
    exact ⟨_, exec_of_result (hresult.trans hok), rfl, rawLength_storeTexture hout s,
      fun j hj => ((read_storeTexture s _ j).trans (if_pos hj)).trans (List.getElem?_eq_getElem hj),
      fun a ha => (read_storeTexture s _ a).trans (if_neg (Nat.not_lt.mpr ha))⟩

/-- Outside a chunk-clean geometry an enabled SWIZZLE leaves fewer than H rows, so a second one fails (R152). -/
theorem swizzle_again_fails {f : Format} {s t : State} (hen : s.swzEn = true)
    (hclean : chunkClean f.bpp s.imgWidth s.imgHeight = false) (ht : exec (.swizzle f.code) s = .next t)
    (herr : t.err = 0) : failsWith (.swizzle f.code) t 2 := by
  obtain ⟨u, hu, rfl⟩ := result_of_exec ht herr
  rcases swizzleBody_ok ((commandResult_swizzle f s).symm.trans hu) with ⟨hoff, -⟩ | ⟨-, hodd, hcap, hlen, rfl⟩
  · rw [hen] at hoff
    cases hoff
  · have hpair : ¬ oddPair f.bpp s := fun h =>
      Bool.false_ne_true (hodd.symm.trans ((oddWidth_eq_true f s.imgWidth).mpr h))
    rw [planeBytes_eq f s.imgWidth s.imgHeight hpair] at hlen ⊢
    have hshort := swizzledTexture_length_lt hpair hclean
    have hlength : (s.storeTexture (s.swizzledTexture f)).succeed.rawLength = (s.swizzledTexture f).length :=
      rawLength_storeTexture (Nat.lt_trans (Nat.lt_of_lt_of_le hshort hlen) (rawLength_lt s)) s
    have hfits : (s.swizzledTexture f).length ≤ s.rawCap :=
      Nat.le_trans (Nat.le_trans (Nat.le_of_lt hshort) hlen) hcap
    have hagain : swizzleBody f (s.storeTexture (s.swizzledTexture f)).succeed = .error .truncatedInput :=
      swizzleBody_of_short hen hpair (hlength.trans_le hfits) (hlength.trans_lt hshort)
    exact failsWith_of_result ((commandResult_swizzle f _).trans hagain)

/-- Settles O45: the involution byte by byte, and the bytes that are missing elsewhere. -/
theorem swizzleIsAnInvolutionWhenChunkClean : Obligations.SwizzleIsAnInvolutionWhenChunkClean := by
  unfold Obligations.SwizzleIsAnInvolutionWhenChunkClean
  exact ⟨fun _ _ _ _ h hclean => swizzle_swizzle h hclean, fun _ _ _ hen hclean => swizzle_again_fails hen hclean⟩

/-! ### DECODE with the swizzle on -/

theorem Format.eq_format_of_ci? {f : Format} {c : CIFormat} (h : f.ci? = some c) : f = c.format := by
  cases f <;> cases h <;> rfl

section decode

variable {f : Format} {s : State}

theorem commandResult_decode (f : Format) (s : State) : commandResult (.decode f.code) s = decodeBody f s :=
  withFormat_code f _

theorem decodeBody_of_palette_error {e : ErrorKind} (hodd : ¬ oddPair f.bpp s) (hcap : ¬ overCapacity s)
    (hpal : decodePalette f s (s.rawBytes 0 s.rawLength) = .error e) : decodeBody f s = .error e := by
  rw [decodeBody, oddWidth_of_not_oddPair hodd, if_neg Bool.false_ne_true, if_neg hcap, hpal]

/-- What a DECODE does once its palette is known (R160). -/
theorem decodeBody_of_palette_ok {pal : Palette} {rest : List Byte} (hodd : ¬ oddPair f.bpp s)
    (hcap : ¬ overCapacity s) (hpal : decodePalette f s (s.rawBytes 0 s.rawLength) = .ok (pal, rest)) :
    decodeBody f s =
      if rest.length < planeSize f.bpp s then .error .truncatedInput
      else
        let B := swizzleIf s.swzEn (slice rest 0 (planeSize f.bpp s)) s.imgWidth s.imgHeight f.bpp
        if B.length < planeSize f.bpp s then .error .truncatedInput
        else .ok ((s.writeSurf (planeDecode f B s.imgPixels pal)).loadIfIndexed f pal) := by
  rw [decodeBody, oddWidth_of_not_oddPair hodd, if_neg Bool.false_ne_true, if_neg hcap, hpal,
    planeBytes_eq f s.imgWidth s.imgHeight hodd]
  rfl

/-- The swizzle cuts every plane of another geometry short, whatever its palette (R160, R207). -/
theorem decodeBody_of_not_chunkClean {pal : Palette} {rest : List Byte} (hen : s.swzEn = true)
    (hodd : ¬ oddPair f.bpp s) (hcap : ¬ overCapacity s)
    (hpal : decodePalette f s (s.rawBytes 0 s.rawLength) = .ok (pal, rest))
    (hclean : chunkClean f.bpp s.imgWidth s.imgHeight = false) : decodeBody f s = .error .truncatedInput := by
  rw [decodeBody_of_palette_ok hodd hcap hpal]
  by_cases hrest : rest.length < planeSize f.bpp s
  · rw [if_pos hrest]
  · have hplane : s.imgHeight * bytesPerRow f.bpp s.imgWidth ≤ (slice rest 0 (planeSize f.bpp s)).length := by
      rw [← planeSize_eq_rows hodd, slice_length]
      omega
    have hshort := swizzle_length_lt hplane hclean
    rw [← planeSize_eq_rows hodd] at hshort
    rw [if_neg hrest, hen]
    exact if_pos hshort

/-- Everything the palette of a DECODE can do (R135, R160). -/
theorem decodePalette_cases (f : Format) (s : State) :
    (∃ c, f.ci? = some c ∧ s.rawLength < 2 * c.cap ∧
        decodePalette f s (s.rawBytes 0 s.rawLength) = .error .malformedPalette) ∨
      ∃ pal rest, decodePalette f s (s.rawBytes 0 s.rawLength) = .ok (pal, rest) := by
  rw [decodePalette]
  cases f.ci? with
  | none => exact .inr ⟨_, _, rfl⟩
  | some c =>
    rcases splitPalette_cases (s.rawBytes 0 s.rawLength) c.paletteSize s.palAtStart with
      ⟨hshort, hsplit⟩ | ⟨-, pb, rest, hsplit, -⟩
    · rw [State.rawBytes_length] at hshort
      exact .inl ⟨c, rfl, hshort, by simp only [hsplit]⟩
    · exact .inr ⟨paletteParse pb c.cap, rest, by simp only [hsplit]⟩

end decode

/-- Settles O46: the table of R154 by arithmetic, and DECODE by what its palette does. -/
theorem onlyChunkCleanGeometriesDecode : Obligations.OnlyChunkCleanGeometriesDecode := by
  unfold Obligations.OnlyChunkCleanGeometriesDecode
  refine ⟨chunkClean_iff_width, fun f s hen hodd hcap hclean => ?_⟩
  have hresult := commandResult_decode f s
  rcases decodePalette_cases f s with ⟨c, hci, hshort, hpal⟩ | ⟨pal, rest, hpal⟩
  · have hfails : failsWith (.decode f.code) s 5 :=
      failsWith_of_result (e := .malformedPalette) (hresult.trans (decodeBody_of_palette_error hodd hcap hpal))
    cases c with
    | ci4 => exact .inr (.inl ⟨by rw [hci]; rfl, hshort, hfails⟩)
    | ci8 => exact .inr (.inr ⟨Format.eq_format_of_ci? hci, hshort, hfails⟩)
  · exact .inl (failsWith_of_result (e := .truncatedInput)
      (hresult.trans (decodeBody_of_not_chunkClean hen hodd hcap hpal hclean)))

end Sys2Proof.Machine

/-! O47, O48, O49 and O52: NOP and DECODE (45_convert.md R160, R162, R163). A DECODE is what `decodePalette` takes from
the texture, the swizzle of the plane that is left, `State.applySwizzle`, and a plane decode; it completes exactly where
the plane is there and the swizzle keeps it whole, `State.keepsPlane`. -/

namespace Sys2Proof.Machine

open Sys2Proof

/-! ### NOP -/

/-- Settles O47: the encodings of NOP decode, a word with RSV not 0 is no command, and NOP commits the state as it is. -/
theorem nopOnlyClearsTheErrorCode : Obligations.NopOnlyClearsTheErrorCode := by
  unfold Obligations.NopOnlyClearsTheErrorCode
  exact ⟨fun fmt => decode_encode (.nop fmt), fun _ s _ hrsv => issue_of_rsv hrsv s, fun _ s => commit_ok s s⟩

/-! ### The swizzle of a plane -/

/-- A plane after the swizzle of a whole-texture command. -/
def State.applySwizzle (s : State) (f : Format) (B : List Byte) : List Byte :=
  swizzleIf s.swzEn B s.imgWidth s.imgHeight f.bpp

/-- The swizzle of a whole-texture command keeps every byte of a plane (44_swizzle.md R153, R154). -/
def State.keepsPlane (s : State) (f : Format) : Prop :=
  s.swzEn = false ∨ chunkClean f.bpp s.imgWidth s.imgHeight = true

section applySwizzle

variable {f : Format} {s : State} {B : List Byte}

theorem applySwizzle_of_disabled (hen : s.swzEn = false) : s.applySwizzle f B = B := by
  rw [State.applySwizzle, hen, swizzleIf_false]

theorem applySwizzle_of_enabled (hen : s.swzEn = true) :
    s.applySwizzle f B = swizzle B s.imgWidth s.imgHeight f.bpp := by
  rw [State.applySwizzle, hen, swizzleIf_true]

theorem not_keepsPlane_iff (f : Format) (s : State) :
    ¬ s.keepsPlane f ↔ s.swzEn = true ∧ chunkClean f.bpp s.imgWidth s.imgHeight = false := by
  rw [State.keepsPlane, not_or, Bool.not_eq_false, Bool.not_eq_true]

theorem applySwizzle_length (hodd : ¬ oddPair f.bpp s) (hkeeps : s.keepsPlane f)
    (hB : B.length = planeSize f.bpp s) : (s.applySwizzle f B).length = planeSize f.bpp s := by
  cases hen : s.swzEn with
  | false => rw [applySwizzle_of_disabled hen, hB]
  | true =>
    have hclean := hkeeps.resolve_left (by simp [hen])
    rw [planeSize_eq_rows hodd] at hB ⊢
    rw [applySwizzle_of_enabled hen, swizzle_length_of_chunkClean hB.ge hclean]

theorem applySwizzle_length_lt (hodd : ¬ oddPair f.bpp s) (hcut : ¬ s.keepsPlane f)
    (hB : B.length = planeSize f.bpp s) : (s.applySwizzle f B).length < planeSize f.bpp s := by
  obtain ⟨hen, hclean⟩ := (not_keepsPlane_iff f s).mp hcut
  rw [planeSize_eq_rows hodd] at hB ⊢
  rw [applySwizzle_of_enabled hen]
  exact swizzle_length_lt hB.ge hclean

/-- A second swizzle undoes the first, where it keeps the plane (R152). -/
theorem applySwizzle_applySwizzle (hodd : ¬ oddPair f.bpp s) (hkeeps : s.keepsPlane f)
    (hB : B.length = planeSize f.bpp s) : s.applySwizzle f (s.applySwizzle f B) = B := by
  cases hen : s.swzEn with
  | false => rw [applySwizzle_of_disabled hen, applySwizzle_of_disabled hen]
  | true =>
    have hclean := hkeeps.resolve_left (by simp [hen])
    rw [planeSize_eq_rows hodd] at hB
    rw [applySwizzle_of_enabled hen, applySwizzle_of_enabled hen, swizzle_swizzle hB.ge hclean, ← hB, List.take_length]

end applySwizzle

/-! ### The palette of a DECODE -/

theorem CIFormat.code_format (c : CIFormat) : c.format.code = c.code := by cases c <;> rfl

theorem decodePalette_unindexed {f : Format} (h : f.ci? = none) (s : State) (B : List Byte) :
    decodePalette f s B = .ok (s.pal, B) := by
  rw [decodePalette, h]

theorem decodePalette_of_split {c : CIFormat} {s : State} {B pb rest : List Byte}
    (h : splitPalette B (2 * c.cap) s.palAtStart = .ok (pb, rest)) :
    decodePalette c.format s B = .ok (paletteParse pb c.cap, rest) := by
  rw [← CIFormat.paletteSize_eq] at h
  cases c <;> simp only [decodePalette, CIFormat.format, Format.ci?, h]

theorem decodePalette_of_short {c : CIFormat} {s : State} (h : s.rawLength < 2 * c.cap) :
    decodePalette c.format s (s.rawBytes 0 s.rawLength) = .error .malformedPalette := by
  have hsplit : splitPalette (s.rawBytes 0 s.rawLength) c.paletteSize s.palAtStart = .error .malformedPalette :=
    if_pos (by rwa [State.rawBytes_length])
  cases c <;> simp only [decodePalette, CIFormat.format, Format.ci?, hsplit]

theorem bareTexture_length (s : State) (c : CIFormat) : (s.bareTexture c).length = s.rawLength - 2 * c.cap := by
  rw [State.bareTexture, State.rawBytes_length, Nat.add_sub_cancel_left]

/-- An indexed DECODE takes the palette and the bytes that PAL_READ takes (43_palette.md R141). -/
theorem decodePalette_of_fits {c : CIFormat} {s : State} (h : 2 * c.cap ≤ s.rawLength) :
    decodePalette c.format s (s.rawBytes 0 s.rawLength) = .ok (s.loadedPalette c, s.bareTexture c) :=
  decodePalette_of_split (splitPalette_rawBytes h s.palAtStart)

theorem State.loadIfIndexed_unindexed {f : Format} (h : f.ci? = none) (s : State) (pal : Palette) :
    s.loadIfIndexed f pal = s := by
  rw [State.loadIfIndexed, h]

theorem State.loadIfIndexed_indexed (c : CIFormat) (s : State) (pal : Palette) :
    s.loadIfIndexed c.format pal = s.storePalette pal c.cap := by
  cases c <;> rfl

theorem State.loadIfIndexed_surf (s : State) (f : Format) (pal : Palette) :
    (s.loadIfIndexed f pal).surf = s.surf := by
  rw [State.loadIfIndexed]
  cases f.ci? <;> rfl

/-! ### The branches of DECODE -/

theorem State.slice_rawBytes_head (s : State) {a b n : Nat} (h : n ≤ b - a) :
    slice (s.rawBytes a b) 0 n = s.rawBytes a (a + n) := by
  apply List.ext_getElem?
  intro i
  rw [slice_getElem?, State.rawBytes_getElem?, State.rawBytes_getElem?, Nat.zero_add, Nat.sub_zero,
    Nat.add_sub_cancel_left]
  by_cases hi : i < n
  · rw [if_pos hi, if_pos hi, if_pos (Nat.lt_of_lt_of_le hi h)]
  · rw [if_neg hi, if_neg hi]

section decode

variable {f : Format} {s : State} {pal : Palette} {rest : List Byte}

theorem not_oddPair_of_oddWidth (h : oddWidth f s.imgWidth = false) : ¬ oddPair f.bpp s := fun hodd =>
  Bool.false_ne_true (h.symm.trans ((oddWidth_eq_true f s.imgWidth).mpr hodd))

theorem decodeBody_of_oddPair (hodd : oddPair f.bpp s) : decodeBody f s = .error .oddWidthUnsupported :=
  if_pos ((oddWidth_eq_true f s.imgWidth).mpr hodd)

theorem decodeBody_of_overCapacity (hodd : ¬ oddPair f.bpp s) (hcap : overCapacity s) :
    decodeBody f s = .error .capacityExceeded := by
  rw [decodeBody, oddWidth_of_not_oddPair hodd, if_neg Bool.false_ne_true, if_pos hcap]

theorem decodeBody_of_short (hodd : ¬ oddPair f.bpp s) (hcap : ¬ overCapacity s)
    (hpal : decodePalette f s (s.rawBytes 0 s.rawLength) = .ok (pal, rest))
    (hlen : rest.length < planeSize f.bpp s) : decodeBody f s = .error .truncatedInput :=
  (decodeBody_of_palette_ok hodd hcap hpal).trans (if_pos hlen)

theorem decodeBody_of_cut (hodd : ¬ oddPair f.bpp s) (hcap : ¬ overCapacity s)
    (hpal : decodePalette f s (s.rawBytes 0 s.rawLength) = .ok (pal, rest)) (hcut : ¬ s.keepsPlane f) :
    decodeBody f s = .error .truncatedInput := by
  obtain ⟨hen, hclean⟩ := (not_keepsPlane_iff f s).mp hcut
  exact decodeBody_of_not_chunkClean hen hodd hcap hpal hclean

/-- The pixels of a DECODE that completes, and its palette (R160). -/
theorem decodeBody_of_whole (hodd : ¬ oddPair f.bpp s) (hcap : ¬ overCapacity s)
    (hpal : decodePalette f s (s.rawBytes 0 s.rawLength) = .ok (pal, rest)) (hlen : planeSize f.bpp s ≤ rest.length)
    (hkeeps : s.keepsPlane f) :
    decodeBody f s = .ok ((s.writeSurf (planeDecode f (s.applySwizzle f (slice rest 0 (planeSize f.bpp s)))
      s.imgPixels pal)).loadIfIndexed f pal) := by
  have hplane : (slice rest 0 (planeSize f.bpp s)).length = planeSize f.bpp s := by
    rw [slice_length]
    omega
  have hout : ¬ (s.applySwizzle f (slice rest 0 (planeSize f.bpp s))).length < planeSize f.bpp s := by
    rw [applySwizzle_length hodd hkeeps hplane]
    exact Nat.lt_irrefl _
  rw [decodeBody_of_palette_ok hodd hcap hpal, if_neg (Nat.not_lt.mpr hlen)]
  exact if_neg hout

theorem decodeBody_of_whole_unindexed (hci : f.ci? = none) (hodd : ¬ oddPair f.bpp s) (hcap : ¬ overCapacity s)
    (hlen : planeSize f.bpp s ≤ s.rawLength) (hkeeps : s.keepsPlane f) :
    decodeBody f s = .ok (s.writeSurf
      (planeDecode f (s.applySwizzle f (s.rawBytes 0 (planeSize f.bpp s))) s.imgPixels s.pal)) := by
  have hok := decodeBody_of_whole hodd hcap (decodePalette_unindexed hci s _)
    (hlen.trans_eq (State.rawBytes_length s 0 s.rawLength).symm) hkeeps
  rwa [State.slice_rawBytes s _ _ _ hlen, State.loadIfIndexed_unindexed hci] at hok

theorem decodeBody_of_whole_indexed {c : CIFormat} (hodd : ¬ oddPair c.format.bpp s) (hcap : ¬ overCapacity s)
    (hlen : 2 * c.cap + planeSize c.format.bpp s ≤ s.rawLength) (hkeeps : s.keepsPlane c.format) :
    decodeBody c.format s = .ok ((s.writeSurf (planeDecode c.format
      (s.applySwizzle c.format (s.rawBytes (s.textureAt c) (s.textureAt c + planeSize c.format.bpp s)))
      s.imgPixels (s.loadedPalette c))).storePalette (s.loadedPalette c) c.cap) := by
  have hbare := bareTexture_length s c
  have hok := decodeBody_of_whole hodd hcap (decodePalette_of_fits (by omega)) (by omega) hkeeps
  rwa [State.bareTexture, State.slice_rawBytes_head s (by omega), State.loadIfIndexed_indexed] at hok

/-- Where a DECODE completes, its palette is there, its plane is there, and the swizzle keeps it whole. -/
theorem whole_of_decodeBody {t : State} (h : decodeBody f s = .ok t) :
    ¬ oddPair f.bpp s ∧ ¬ overCapacity s ∧ s.keepsPlane f ∧
      ∃ pal rest, decodePalette f s (s.rawBytes 0 s.rawLength) = .ok (pal, rest) ∧
        planeSize f.bpp s ≤ rest.length := by
  obtain ⟨hwidth, hraw, hsurf, pal, rest, hpal, hlen, -, -⟩ := decodeBody_ok h
  have hodd := not_oddPair_of_oddWidth hwidth
  have hcap : ¬ overCapacity s := by
    rintro (h | h) <;> omega
  rw [planeBytes_eq f _ _ hodd] at hlen
  refine ⟨hodd, hcap, by_contra fun hcut => ?_, pal, rest, hpal, hlen⟩
  cases (decodeBody_of_cut hodd hcap hpal hcut).symm.trans h

end decode

theorem commandResult_decode_indexed (c : CIFormat) (s : State) :
    commandResult (.decode c.code) s = decodeBody c.format s := by
  rw [← CIFormat.code_format, commandResult_decode]

/-! ### The command -/

/-- Settles O48: PAL is used as it stands, and the plane is the head of RAW. -/
theorem decodeOfUnindexedFormats : Obligations.DecodeOfUnindexedFormats := by
  unfold Obligations.DecodeOfUnindexedFormats
  refine ⟨fun fmt => decode_encode (.decode fmt),
    fun fmt s hfmt => failsWith_of_result (e := .unsupportedFormat) (withFormat_unassigned hfmt _), fun f s hci => ?_⟩
  have hresult := commandResult_decode f s
  have hpal := decodePalette_unindexed hci s (s.rawBytes 0 s.rawLength)
  have hlength : (s.rawBytes 0 s.rawLength).length = s.rawLength := State.rawBytes_length s 0 s.rawLength
  refine ⟨fun hodd => ?_, fun hodd hcap => ?_, fun hodd hcap hlen => ?_, fun hodd hcap _ hcut => ?_,
    fun hodd hcap hlen hkeeps => ?_⟩
  · exact failsWith_of_result (hresult.trans (decodeBody_of_oddPair hodd))
  · exact failsWith_of_result (hresult.trans (decodeBody_of_overCapacity hodd hcap))
  · exact failsWith_of_result (hresult.trans (decodeBody_of_short hodd hcap hpal (hlength.trans_lt hlen)))
  · exact failsWith_of_result (hresult.trans (decodeBody_of_cut hodd hcap hpal ((not_keepsPlane_iff f s).mpr hcut)))
  · have hok := decodeBody_of_whole_unindexed hci hodd hcap hlen hkeeps
    exact ⟨_, exec_of_result (hresult.trans hok), rfl,
      fun k hk => (read_writeSurf_planeDecode f s _ _ s.pal k).trans (if_pos hk),
      fun k hk => (read_writeSurf_planeDecode f s _ _ s.pal k).trans (if_neg (Nat.not_lt.mpr hk))⟩

/-- Settles O49: the palette and the plane are those PAL_READ would leave. -/
theorem decodeOfIndexedFormats : Obligations.DecodeOfIndexedFormats := by
  unfold Obligations.DecodeOfIndexedFormats
  intro c s
  have hresult := commandResult_decode_indexed c s
  have hlength := bareTexture_length s c
  refine ⟨decode_encode (.decode c.code), fun hodd => ?_, fun hodd hcap => ?_, fun hodd hcap hlen => ?_,
    fun hodd hcap hlen hshort => ?_, fun hodd hcap hlen hcut => ?_, fun hodd hcap hlen hkeeps => ?_⟩
  · exact failsWith_of_result (hresult.trans (decodeBody_of_oddPair hodd))
  · exact failsWith_of_result (hresult.trans (decodeBody_of_overCapacity hodd hcap))
  · exact failsWith_of_result
      (hresult.trans (decodeBody_of_palette_error hodd hcap (decodePalette_of_short hlen)))
  · have hpal := decodePalette_of_fits hlen
    exact failsWith_of_result (hresult.trans (decodeBody_of_short hodd hcap hpal (by omega)))
  · have hpal := decodePalette_of_fits (c := c) (s := s) (by omega)
    exact failsWith_of_result
      (hresult.trans (decodeBody_of_cut hodd hcap hpal ((not_keepsPlane_iff c.format s).mpr hcut)))
  · have hok := decodeBody_of_whole_indexed hodd hcap hlen hkeeps
    exact ⟨_, exec_of_result (hresult.trans hok), rfl, palEntry_loadedPalette s c,
      paletteCount_storePalette (CIFormat.cap_le c) s (s.loadedPalette c),
      fun k hk => (read_writeSurf_planeDecode c.format s _ _ (s.loadedPalette c) k).trans (if_pos hk),
      fun k hk => (read_writeSurf_planeDecode c.format s _ _ (s.loadedPalette c) k).trans
        (if_neg (Nat.not_lt.mpr hk))⟩

/-! ### DECODE by its parts -/

/-- The state with another texture in RAW. -/
def State.withRaw (s : State) (raw : Memory Byte) (len : BitVec 32) : State := { s with raw := raw, rawLen := len }

theorem rawBytes_storeTexture (s : State) (B : List Byte) : (s.storeTexture B).rawBytes 0 B.length = B := by
  apply List.ext_getElem?
  intro i
  rw [State.rawBytes_getElem?, Nat.sub_zero, Nat.zero_add]
  by_cases hi : i < B.length
  · have hread := (read_storeTexture s B i).trans (if_pos hi)
    rw [List.getElem?_eq_getElem hi] at hread ⊢
    rw [if_pos hi, State.rawByte_of_read hread]
  · rw [if_neg hi, List.getElem?_eq_none (Nat.le_of_not_lt hi)]

section parts

variable {f : Format} {s : State}

theorem swizzleBody_of_enabled (hen : s.swzEn = true) (hodd : ¬ oddPair f.bpp s) (hcap : s.rawLength ≤ s.rawCap)
    (hlen : planeSize f.bpp s ≤ s.rawLength) :
    swizzleBody f s = .ok (s.storeTexture (s.applySwizzle f (s.rawBytes 0 (planeSize f.bpp s)))) := by
  rw [swizzleBody_of_not_oddPair hen hodd, if_neg (Nat.not_lt.mpr hcap), if_neg (Nat.not_lt.mpr hlen),
    applySwizzle_of_enabled hen]
  rfl

/-- After a SWIZZLE that keeps the plane, RAW begins with the swizzled plane, and RAW_LEN covers it. -/
theorem swizzleBody_of_whole (hodd : ¬ oddPair f.bpp s) (hcap : s.rawLength ≤ s.rawCap)
    (hlen : planeSize f.bpp s ≤ s.rawLength) (hkeeps : s.keepsPlane f) :
    ∃ raw len, swizzleBody f s = .ok (s.withRaw raw len) ∧ (s.withRaw raw len).rawLength ≤ s.rawCap ∧
      planeSize f.bpp s ≤ (s.withRaw raw len).rawLength ∧
      (s.withRaw raw len).rawBytes 0 (planeSize f.bpp s) =
        s.applySwizzle f (s.rawBytes 0 (planeSize f.bpp s)) := by
  rcases Bool.eq_false_or_eq_true s.swzEn with hen | hen
  · have hout : (s.applySwizzle f (s.rawBytes 0 (planeSize f.bpp s))).length = planeSize f.bpp s :=
      applySwizzle_length hodd hkeeps (State.rawBytes_length s 0 _)
    have hstored := rawLength_storeTexture (hout.trans_lt (hlen.trans_lt (rawLength_lt s))) s
    have hbytes := rawBytes_storeTexture s (s.applySwizzle f (s.rawBytes 0 (planeSize f.bpp s)))
    rw [hout] at hstored hbytes
    exact ⟨_, _, swizzleBody_of_enabled hen hodd hcap hlen, hstored.trans_le (hlen.trans hcap), hstored.ge, hbytes⟩
  · exact ⟨s.raw, s.rawLen, swizzleBody_of_disabled hen f, hcap, hlen, (applySwizzle_of_disabled hen).symm⟩

theorem planeDecodeBody_of_whole (hodd : ¬ oddPair f.bpp s) (hcap : ¬ overCapacity s)
    (hlen : planeSize f.bpp s ≤ s.rawLength) :
    planeDecodeBody f s =
      .ok (s.writeSurf (planeDecode f (s.rawBytes 0 (planeSize f.bpp s)) s.imgPixels s.pal)) := by
  rw [planeDecodeBody_of_not_oddPair hodd, if_neg hcap, if_neg (Nat.not_lt.mpr hlen)]

/-- SWIZZLE and then PLANE_DECODE give the pixels of the swizzled plane, with PAL as it stands. -/
theorem exec_swizzle_planeDecode (hodd : ¬ oddPair f.bpp s) (hcap : ¬ overCapacity s)
    (hlen : planeSize f.bpp s ≤ s.rawLength) (hkeeps : s.keepsPlane f) :
    ∃ a b, exec (.swizzle f.code) s = .next a ∧ a.err = 0 ∧ exec (planeDecodeInstr f) a = .next b ∧ b.err = 0 ∧
      b.surf = (s.writeSurf (planeDecode f (s.applySwizzle f (s.rawBytes 0 (planeSize f.bpp s))) s.imgPixels
        s.pal)).surf ∧
      b.pal = s.pal ∧ b.palCount = s.palCount := by
  obtain ⟨hraw, hsurf⟩ := not_or.mp hcap
  obtain ⟨raw, len, hswizzle, hacap, halen, hplane⟩ :=
    swizzleBody_of_whole hodd (Nat.le_of_not_lt hraw) hlen hkeeps
  have hdecode := planeDecodeBody_of_whole (f := f) (s := (s.withRaw raw len).succeed) hodd
    (not_or.mpr ⟨Nat.not_lt.mpr hacap, hsurf⟩) halen
  refine ⟨(s.withRaw raw len).succeed, _, exec_of_result ((commandResult_swizzle f s).trans hswizzle), rfl,
    (exec_planeDecodeInstr f _).trans (congrArg (commit _) hdecode), rfl, ?_, rfl, rfl⟩
  rw [← hplane]
  rfl

end parts

/-- The state PAL_READ leaves but for STATUS.ERR. -/
def State.palRead (s : State) (c : CIFormat) : State :=
  ((s.storePalette (s.loadedPalette c) c.cap).writeRaw (s.bareTexture c)).setRawLen (s.rawLength - 2 * c.cap)

theorem rawLength_palRead (s : State) (c : CIFormat) : (s.palRead c).rawLength = s.rawLength - 2 * c.cap :=
  rawLength_setRawLen ((Nat.sub_le _ _).trans_lt (rawLength_lt s)) _

/-- PAL_READ moves the bytes besides the palette to the head of RAW. -/
theorem rawBytes_palRead {s : State} {c : CIFormat} {n : Nat} (h : n ≤ s.rawLength - 2 * c.cap) :
    (s.palRead c).rawBytes 0 n = s.rawBytes (s.textureAt c) (s.textureAt c + n) := by
  refine State.rawBytes_congr (by omega) fun i hi => ?_
  rw [Nat.zero_add]
  exact State.rawByte_of_read ((read_writeAll_bareTexture s.raw s c i).trans (if_pos (by omega)))

/-- Settles O52: PAL_READ leaves the palette and the plane a DECODE takes, and the other two commands swizzle and
decode that plane. -/
theorem decodeIsTheCompositionOfItsParts : Obligations.DecodeIsTheCompositionOfItsParts := by
  unfold Obligations.DecodeIsTheCompositionOfItsParts
  refine ⟨fun f s t hci ht herr => ?_, fun c s t ht herr => ?_⟩
  · obtain ⟨u, hu, rfl⟩ := result_of_exec ht herr
    rw [commandResult_decode] at hu
    obtain ⟨hodd, hcap, hkeeps, pal, rest, hpal, hlen⟩ := whole_of_decodeBody hu
    cases (decodePalette_unindexed hci s _).symm.trans hpal
    rw [State.rawBytes_length, Nat.sub_zero] at hlen
    cases hu.symm.trans (decodeBody_of_whole_unindexed hci hodd hcap hlen hkeeps)
    obtain ⟨a, b, ha, haerr, hb, hberr, hsurf, -⟩ := exec_swizzle_planeDecode hodd hcap hlen hkeeps
    exact ⟨a, b, ha, haerr, hb, hberr, hsurf⟩
  · obtain ⟨u, hu, rfl⟩ := result_of_exec ht herr
    rw [commandResult_decode_indexed] at hu
    obtain ⟨hodd, hcap, hkeeps, pal, rest, hpal, hlen⟩ := whole_of_decodeBody hu
    have hfits : 2 * c.cap ≤ s.rawLength := by
      by_contra hshort
      cases (decodePalette_of_short (Nat.lt_of_not_le hshort)).symm.trans hpal
    cases (decodePalette_of_fits hfits).symm.trans hpal
    rw [bareTexture_length] at hlen
    cases hu.symm.trans (decodeBody_of_whole_indexed hodd hcap (by omega) hkeeps)
    obtain ⟨hraw, hsurf⟩ := not_or.mp hcap
    have hread := (commandResult_palRead c s).trans (palReadBody_of_fits (Nat.le_of_not_lt hraw) hfits)
    have hzcap : ¬ overCapacity (s.palRead c).succeed := by
      refine not_or.mpr ⟨?_, hsurf⟩
      have hzlen : (s.palRead c).succeed.rawLength = _ := rawLength_palRead s c
      rw [hzlen]
      exact fun h => hraw (h.trans_le (Nat.sub_le _ _))
    obtain ⟨a, b, ha, haerr, hb, hberr, hbsurf, hbpal, hbcount⟩ := exec_swizzle_planeDecode (f := c.format)
      (s := (s.palRead c).succeed) hodd hzcap (hlen.trans_eq (rawLength_palRead s c).symm) hkeeps
    rw [CIFormat.code_format] at ha
    refine ⟨(s.palRead c).succeed, a, b, exec_of_result hread, rfl, ha, haerr, hb, hberr, hbsurf.trans ?_, hbpal,
      hbcount⟩
    rw [← rawBytes_palRead hlen]
    rfl

end Sys2Proof.Machine

/-! O50, O51 and O60: ENCODE (45_convert.md R161). The checks are said once for every format, in the order of the body;
an indexed format brings in only the palette of the image, which is built from empty, so that the PAL and PAL_COUNT
found at issue do not count. -/

namespace Sys2Proof.Machine

open Sys2Proof

/-! ### The bytes of an ENCODE -/

theorem encodeTexture_unindexed {f : Format} (h : f.ci? = none) (s : State) (px : List Pixel) (pal : Palette)
    (count : Nat) : encodeTexture f s px pal count = s.applySwizzle f (planeEncode f px pal count) := by
  rw [encodeTexture, h]
  rfl

theorem encodeTexture_indexed (c : CIFormat) (s : State) (px : List Pixel) (pal : Palette) (count : Nat) :
    encodeTexture c.format s px pal count = attachPalette (paletteBytes pal count c.cap)
      (s.applySwizzle c.format (planeEncode c.format px pal count)) s.palAtStart := by
  cases c <;> rfl

theorem read_storeTexture_within (s : State) {B : List Byte} {j : Nat} (h : j < B.length) :
    (s.storeTexture B).raw.read j = some B[j] :=
  ((read_storeTexture s B j).trans (if_pos h)).trans (List.getElem?_eq_getElem h)

theorem read_storeTexture_beyond (s : State) {B : List Byte} {a : Nat} (h : B.length ≤ a) :
    (s.storeTexture B).raw.read a = s.raw.read a :=
  (read_storeTexture s B a).trans (if_neg (Nat.not_lt.mpr h))

/-! ### The branches of ENCODE -/

section encode

variable {f : Format} {s : State}

theorem commandResult_encodeFormat (f : Format) (s : State) : commandResult (.encode f.code) s = encodeBody f s :=
  withFormat_code f _

theorem encodeBody_of_oddPair (hodd : oddPair f.bpp s) : encodeBody f s = .error .oddWidthUnsupported :=
  if_pos ((oddWidth_eq_true f s.imgWidth).mpr hodd)

theorem encodeBody_of_surfCap (hodd : ¬ oddPair f.bpp s) (hsurf : s.surfCap < s.imgPixels) :
    encodeBody f s = .error .capacityExceeded := by
  rw [encodeBody, oddWidth_of_not_oddPair hodd, if_neg Bool.false_ne_true, if_pos hsurf]

theorem encodeBody_of_palette_error {e : ErrorKind} (hodd : ¬ oddPair f.bpp s) (hsurf : s.imgPixels ≤ s.surfCap)
    (hpal : encodePalette f palZero 0 s.image = .error e) : encodeBody f s = .error e := by
  rw [State.image] at hpal
  simp only [encodeBody, oddWidth_of_not_oddPair hodd, Bool.false_eq_true, if_false, if_neg (Nat.not_lt.mpr hsurf),
    hpal]

/-- What an ENCODE does once its palette is known (R161). -/
theorem encodeBody_of_palette_ok {pal : Palette} {count : Nat} (hodd : ¬ oddPair f.bpp s)
    (hsurf : s.imgPixels ≤ s.surfCap) (hpal : encodePalette f palZero 0 s.image = .ok (pal, count)) :
    encodeBody f s =
      if s.rawCap < (encodeTexture f s s.image pal count).length then .error .capacityExceeded
      else .ok ((s.storeTexture (encodeTexture f s s.image pal count)).storeIfIndexed f pal count) := by
  rw [State.image] at hpal ⊢
  simp only [encodeBody, oddWidth_of_not_oddPair hodd, Bool.false_eq_true, if_false, if_neg (Nat.not_lt.mpr hsurf),
    hpal]

/-- What an ENCODE of a format without palette does; the palette named is not used. -/
theorem encodeBody_unindexed (hci : f.ci? = none) (hodd : ¬ oddPair f.bpp s) (hsurf : s.imgPixels ≤ s.surfCap)
    (pal : Palette) (count : Nat) :
    encodeBody f s =
      if s.rawCap < (s.applySwizzle f (planeEncode f s.image pal count)).length then .error .capacityExceeded
      else .ok (s.storeTexture (s.applySwizzle f (planeEncode f s.image pal count))) := by
  rw [encodeBody_of_palette_ok hodd hsurf (encodePalette_unindexed hci palZero 0 s.image), encodeTexture_unindexed hci,
    State.storeIfIndexed_unindexed hci, planeEncode_unindexed f hci s.image palZero pal 0 count]

/-- What an ENCODE of an indexed format does, with the palette of the image. -/
theorem encodeBody_indexed {c : CIFormat} {pal : Palette} {count : Nat} (hodd : ¬ oddPair c.format.bpp s)
    (hsurf : s.imgPixels ≤ s.surfCap) (hpal : paletteExtend palZero 0 s.image c.cap = .ok (pal, count)) :
    encodeBody c.format s =
      if s.rawCap < (encodeTexture c.format s s.image pal count).length then .error .capacityExceeded
      else .ok ((s.storeTexture (encodeTexture c.format s s.image pal count)).storePalette pal count) := by
  rw [encodeBody_of_palette_ok hodd hsurf ((encodePalette_indexed c palZero 0 s.image).trans hpal),
    State.storeIfIndexed_indexed]

end encode

/-! ### The command -/

/-- Settles O50: the bytes do not depend on a palette, and the texture is written whole. -/
theorem encodeOfUnindexedFormats : Obligations.EncodeOfUnindexedFormats := by
  unfold Obligations.EncodeOfUnindexedFormats
  refine ⟨fun fmt => decode_encode (.encode fmt),
    fun fmt s hfmt => failsWith_of_result (e := .unsupportedFormat) (withFormat_unassigned hfmt _), fun f s hci => ?_⟩
  have hresult := commandResult_encodeFormat f s
  refine ⟨fun hodd => ?_, fun hodd hsurf => ?_, fun hodd hsurf hraw => ?_, fun hodd hsurf hraw => ?_⟩
  · exact failsWith_of_result (hresult.trans (encodeBody_of_oddPair hodd))
  · exact failsWith_of_result (hresult.trans (encodeBody_of_surfCap hodd hsurf))
  · have hbody := encodeBody_unindexed hci hodd hsurf s.pal s.paletteCount
    exact failsWith_of_result (hresult.trans (hbody.trans (if_pos hraw)))
  · have hbody := encodeBody_unindexed hci hodd hsurf s.pal s.paletteCount
    exact ⟨_, exec_of_result (hresult.trans (hbody.trans (if_neg (Nat.not_lt.mpr hraw)))), rfl,
      fun hlen => rawLength_storeTexture hlen s, fun _ hj => read_storeTexture_within s hj,
      fun _ ha => read_storeTexture_beyond s ha⟩

/-- Settles O51: the palette is the one PAL_BUILD stores, and the texture is written whole. -/
theorem encodeOfIndexedFormats : Obligations.EncodeOfIndexedFormats := by
  unfold Obligations.EncodeOfIndexedFormats
  intro c s
  have hresult := commandResult_encode c s
  refine ⟨decode_encode (.encode c.code), fun hodd => ?_, fun hodd hsurf => ?_, fun hodd hsurf hover => ?_,
    fun hodd hsurf hfits => ?_⟩
  · exact failsWith_of_result (hresult.trans (encodeBody_of_oddPair hodd))
  · exact failsWith_of_result (hresult.trans (encodeBody_of_surfCap hodd hsurf))
  · have herr : encodePalette c.format palZero 0 s.image = .error .paletteOverflow :=
      (encodePalette_indexed c palZero 0 s.image).trans
        (paletteExtend_of_overflow (CIFormat.cap_le c) (by rwa [newColors_image, Nat.zero_add]))
    exact failsWith_of_result (hresult.trans (encodeBody_of_palette_error hodd hsurf herr))
  · obtain ⟨pal, hpal, hentries⟩ := paletteExtend_image hfits
    have hbody := encodeBody_indexed hodd hsurf hpal
    rw [encodeTexture_indexed] at hbody
    refine ⟨pal, hentries, fun hraw => ?_, fun hraw => ?_⟩
    · exact failsWith_of_result (hresult.trans (hbody.trans (if_pos hraw)))
    · exact ⟨_, exec_of_result (hresult.trans (hbody.trans (if_neg (Nat.not_lt.mpr hraw)))), rfl,
        fun hlen => rawLength_storeTexture hlen s,
        paletteCount_storePalette (Nat.le_trans hfits (CIFormat.cap_le c)) s pal,
        fun _ hj => read_storeTexture_within s hj, fun _ ha => read_storeTexture_beyond s ha⟩

/-! ### The stored palette -/

/-- The state with another PAL and PAL_COUNT. -/
def State.withPalette (s : State) (pal : Palette) (count : BitVec 9) : State :=
  { s with pal := pal, palCount := count }

/-- An indexed format's palette replaces another PAL and PAL_COUNT; otherwise they stay. -/
theorem withPalette_storeIfIndexed (f : Format) (s : State) (B : List Byte) (p pal : Palette) (n : BitVec 9)
    (count : Nat) :
    ((s.withPalette p n).storeTexture B).storeIfIndexed f pal count =
      if f.ci?.isSome then (s.storeTexture B).storeIfIndexed f pal count
      else ((s.storeTexture B).storeIfIndexed f pal count).withPalette p n := by
  rw [State.storeIfIndexed, State.storeIfIndexed]
  cases f.ci? <;> rfl

/-- ENCODE makes the same checks and the same texture whatever PAL and PAL_COUNT are. -/
theorem encodeBody_withPalette (f : Format) (s : State) (p : Palette) (n : BitVec 9) :
    encodeBody f (s.withPalette p n) =
      (encodeBody f s).map fun t => if f.ci?.isSome then t else t.withPalette p n := by
  by_cases hodd : oddPair f.bpp s
  · rw [encodeBody_of_oddPair hodd, encodeBody_of_oddPair (s := s.withPalette p n) hodd]
    rfl
  rcases Nat.lt_or_ge s.surfCap s.imgPixels with hsurf | hsurf
  · rw [encodeBody_of_surfCap hodd hsurf, encodeBody_of_surfCap (s := s.withPalette p n) hodd hsurf]
    rfl
  cases hpal : encodePalette f palZero 0 s.image with
  | error e =>
    rw [encodeBody_of_palette_error hodd hsurf hpal,
      encodeBody_of_palette_error (s := s.withPalette p n) hodd hsurf hpal]
    rfl
  | ok r =>
    rw [encodeBody_of_palette_ok hodd hsurf hpal,
      encodeBody_of_palette_ok (s := s.withPalette p n) hodd hsurf hpal, apply_ite (Except.map _)]
    exact if_congr Iff.rfl rfl (congrArg Except.ok (withPalette_storeIfIndexed f s _ p r.1 n r.2))

/-- Settles O60: STATUS.ERR is 0 exactly where the texture was made. -/
theorem encodeIgnoresTheStoredPalette : Obligations.EncodeIgnoresTheStoredPalette := by
  unfold Obligations.EncodeIgnoresTheStoredPalette
  intro f s t pal count ht
  have hother : exec (.encode f.code) (s.withPalette pal count) =
      commit (s.withPalette pal count) (encodeBody f (s.withPalette pal count)) := by
    rw [exec_eq_commit, commandResult_encodeFormat]
  refine hother.trans ?_
  rw [exec_eq_commit, commandResult_encodeFormat] at ht
  rw [encodeBody_withPalette]
  rcases commit_next ht with ⟨e, he, rfl⟩ | ⟨u, hu, rfl⟩
  · rw [he, if_neg fun h => ErrorKind.code_ne_zero e h.2]
    rfl
  · have herr : u.succeed.err = 0 := rfl
    rw [hu, herr]
    cases f.ci? <;> rfl

end Sys2Proof.Machine

/-! O53 and O55: ENCODE by its parts, and DECODE after ENCODE (45_convert.md R163, R164). Both are about the bytes below
RAW_LEN, `State.texture`: each command that ends an encode is said as a function of them, and a DECODE takes from the
texture of an ENCODE its palette and its plane again. -/

namespace Sys2Proof.Machine

open Sys2Proof

/-! ### The texture in RAW -/

/-- The bytes of RAW below RAW_LEN (10_state.md R35). -/
def State.texture (s : State) : List Byte := s.rawBytes 0 s.rawLength

@[simp] theorem texture_length (s : State) : s.texture.length = s.rawLength := State.rawBytes_length s 0 s.rawLength

theorem texture_storeTexture {B : List Byte} (h : B.length < 2 ^ 32) (s : State) : (s.storeTexture B).texture = B := by
  rw [State.texture, rawLength_storeTexture h, rawBytes_storeTexture]

theorem texture_storeIfIndexed (s : State) (f : Format) (pal : Palette) (count : Nat) :
    (s.storeIfIndexed f pal count).texture = s.texture := by
  rw [State.storeIfIndexed]
  cases f.ci? <;> rfl

theorem texture_eq_iff (s t : State) :
    t.texture = s.texture ↔ t.rawLen = s.rawLen ∧ ∀ a, a < s.rawLength → t.rawByte a = s.rawByte a := by
  constructor
  · intro h
    have hlen : t.rawLength = s.rawLength := by rw [← texture_length, h, texture_length]
    refine ⟨BitVec.eq_of_toNat_eq hlen, fun a ha => ?_⟩
    have hbyte := congrArg (·[a]?) h
    simpa only [State.texture, State.rawBytes_getElem?, hlen, Nat.sub_zero, Nat.zero_add, if_pos ha,
      Option.some.injEq] using hbyte
  · rintro ⟨hlen, hbytes⟩
    rw [State.texture, State.texture, State.rawLength, hlen]
    exact State.rawBytes_congr rfl fun i hi => hbytes _ (by simpa using hi)

/-! ### States of one configuration -/

/-- The two states have the configuration and the capacities in common, which no command writes (10_state.md R38). -/
structure SameConfig (s t : State) : Prop where
  swzEn : t.swzEn = s.swzEn
  palAtStart : t.palAtStart = s.palAtStart
  width : t.width = s.width
  height : t.height = s.height
  rawCap : t.rawCap = s.rawCap
  surfCap : t.surfCap = s.surfCap

theorem sameConfig_of_exec {i : Instr} {s t : State} (h : exec i s = .next t) : SameConfig s t := by
  obtain ⟨⟨hen, hstart, hwidth, hheight, hraw, hsurf, -, -⟩, -⟩ := commandsWriteOnlyTheirOwnState i s t h
  exact ⟨hen, hstart, hwidth, hheight, hraw, hsurf⟩

section SameConfig

variable {s t u : State}

theorem SameConfig.trans (h : SameConfig s t) (h' : SameConfig t u) : SameConfig s u :=
  ⟨h'.swzEn.trans h.swzEn, h'.palAtStart.trans h.palAtStart, h'.width.trans h.width, h'.height.trans h.height,
    h'.rawCap.trans h.rawCap, h'.surfCap.trans h.surfCap⟩

theorem SameConfig.imgWidth (h : SameConfig s t) : t.imgWidth = s.imgWidth := congrArg BitVec.toNat h.width

theorem SameConfig.imgHeight (h : SameConfig s t) : t.imgHeight = s.imgHeight := congrArg BitVec.toNat h.height

theorem SameConfig.imgPixels (h : SameConfig s t) : t.imgPixels = s.imgPixels := by
  rw [State.imgPixels, h.imgWidth, h.imgHeight, State.imgPixels]

theorem SameConfig.planeSize (h : SameConfig s t) (bpp : Nat) : planeSize bpp t = planeSize bpp s :=
  congrArg (fun n => n * bpp / 8) h.imgPixels

theorem SameConfig.applySwizzle (h : SameConfig s t) (f : Format) (B : List Byte) :
    t.applySwizzle f B = s.applySwizzle f B := by
  rw [State.applySwizzle, h.swzEn, h.imgWidth, h.imgHeight, State.applySwizzle]

theorem SameConfig.keepsPlane_iff (h : SameConfig s t) (f : Format) : t.keepsPlane f ↔ s.keepsPlane f := by
  rw [State.keepsPlane, h.swzEn, h.imgWidth, h.imgHeight, State.keepsPlane]

end SameConfig

/-! ### What the commands of an encode leave in RAW -/

section textures

variable {f : Format} {s t : State}

/-- An ENCODE that completes met its checks and stored its texture, with the palette of the image. -/
theorem texture_of_encode (hcap : s.rawCap < 2 ^ 32) (h : exec (.encode f.code) s = .next t) (herr : t.err = 0) :
    ¬ oddPair f.bpp s ∧ s.imgPixels ≤ s.surfCap ∧ ∃ pal count,
      encodePalette f palZero 0 s.image = .ok (pal, count) ∧ t.texture = encodeTexture f s s.image pal count ∧
      t.rawLength ≤ s.rawCap ∧ t.pal = (s.storeIfIndexed f pal count).pal ∧
      t.palCount = (s.storeIfIndexed f pal count).palCount := by
  obtain ⟨u, hu, rfl⟩ := result_of_exec h herr
  rw [commandResult_encodeFormat] at hu
  obtain ⟨hwidth, hsurf, pal, count, hpal, hfits, rfl⟩ := encodeBody_ok hu
  have htexture := (texture_storeIfIndexed (s.storeTexture (encodeTexture f s s.image pal count)) f pal count).trans
    (texture_storeTexture (hfits.trans_lt hcap) s)
  have hlen := (texture_length _).symm.trans_le ((congrArg List.length htexture).trans_le hfits)
  refine ⟨not_oddPair_of_oddWidth hwidth, hsurf, pal, count, hpal, htexture, hlen, ?_⟩
  rw [State.storeIfIndexed, State.storeIfIndexed]
  cases f.ci? <;> exact ⟨rfl, rfl⟩

/-- A PLANE_ENCODE that completes stored the plane, with the palette it ended with. -/
theorem texture_of_planeEncode {pal : Palette} {count : Nat} (hcap : s.rawCap < 2 ^ 32)
    (hpal : encodePalette f s.pal s.paletteCount s.image = .ok (pal, count))
    (h : exec (planeEncodeInstr f) s = .next t) (herr : t.err = 0) :
    t.texture = planeEncode f s.image pal count ∧ t.rawLength = planeSize f.bpp s ∧
      t.pal = (s.storeIfIndexed f pal count).pal ∧ t.palCount = (s.storeIfIndexed f pal count).palCount := by
  rw [exec_planeEncodeInstr] at h
  obtain ⟨u, hu, rfl⟩ := commit_success h herr
  obtain ⟨hwidth, -, hfits, pal', count', hpal', rfl⟩ := planeEncodeBody_ok hu
  cases hpal.symm.trans hpal'
  have hodd := not_oddPair_of_oddWidth hwidth
  have hlen := image_plane_length hodd pal count
  rw [planeBytes_eq f _ _ hodd] at hfits ⊢
  have hstored : (s.storeTexture (planeEncode f s.image pal count)).texture = planeEncode f s.image pal count :=
    texture_storeTexture (hlen.trans_lt (hfits.trans_lt hcap)) s
  rw [State.storeTexture, hlen] at hstored
  have htexture := (texture_storeIfIndexed _ f pal count).trans hstored
  refine ⟨htexture, (texture_length _).symm.trans ((congrArg List.length htexture).trans hlen), ?_⟩
  rw [State.storeIfIndexed, State.storeIfIndexed]
  cases f.ci? <;> exact ⟨rfl, rfl⟩

/-- A SWIZZLE that completes on a texture that is a plane applied the swizzle to it. -/
theorem texture_of_swizzle (h : exec (.swizzle f.code) s = .next t) (herr : t.err = 0)
    (hlen : s.rawLength = planeSize f.bpp s) :
    t.texture = s.applySwizzle f s.texture ∧ t.pal = s.pal ∧ t.palCount = s.palCount := by
  obtain ⟨u, hu, rfl⟩ := result_of_exec h herr
  rcases swizzleBody_ok ((commandResult_swizzle f s).symm.trans hu) with ⟨hen, rfl⟩ | ⟨hen, hwidth, -, -, rfl⟩
  · exact ⟨(applySwizzle_of_disabled hen).symm, rfl, rfl⟩
  · have hodd := not_oddPair_of_oddWidth hwidth
    have hshort : (s.swizzledTexture f).length < 2 ^ 32 :=
      (swizzledTexture_length_le hodd).trans_lt (hlen.symm.trans_lt (rawLength_lt s))
    rw [planeBytes_eq f _ _ hodd]
    refine ⟨(texture_storeTexture hshort s).trans ?_, rfl, rfl⟩
    rw [applySwizzle_of_enabled hen, State.texture, hlen]
    rfl

/-- A PAL_WRITE that completes attached the padded palette to the texture. -/
theorem texture_of_palWrite {c : CIFormat} (hcap : s.rawCap < 2 ^ 32) (h : exec (.palWrite c.code) s = .next t)
    (herr : t.err = 0) :
    t.texture = attachPalette (paletteBytes s.pal s.paletteCount c.cap) s.texture s.palAtStart ∧ t.pal = s.pal ∧
      t.palCount = s.palCount := by
  obtain ⟨u, hu, rfl⟩ := result_of_exec h herr
  obtain ⟨-, hfits, rfl⟩ := palWriteBody_ok ((commandResult_palWrite c s).symm.trans hu)
  have hlen : (s.paddedTexture c).length = s.rawLength + c.paletteSize := paddedTexture_length s c
  have hstored : (s.storeTexture (s.paddedTexture c)).texture = s.paddedTexture c :=
    texture_storeTexture (hlen.trans_lt (hfits.trans_lt hcap)) s
  rw [State.storeTexture, hlen] at hstored
  exact ⟨hstored, rfl, rfl⟩

/-- PLANE_ENCODE and then SWIZZLE leave the swizzled plane, with the palette the plane was encoded with. -/
theorem texture_of_planeEncode_swizzle {a b : State} {pal : Palette} {count : Nat} (hcap : s.rawCap < 2 ^ 32)
    (hpal : encodePalette f s.pal s.paletteCount s.image = .ok (pal, count))
    (ha : exec (planeEncodeInstr f) s = .next a) (haerr : a.err = 0) (hb : exec (.swizzle f.code) a = .next b)
    (hberr : b.err = 0) :
    b.texture = s.applySwizzle f (planeEncode f s.image pal count) ∧
      b.pal = (s.storeIfIndexed f pal count).pal ∧ b.palCount = (s.storeIfIndexed f pal count).palCount := by
  have hconfig := sameConfig_of_exec ha
  obtain ⟨hatexture, halen, hapal, hacount⟩ := texture_of_planeEncode hcap hpal ha haerr
  obtain ⟨hbtexture, hbpal, hbcount⟩ := texture_of_swizzle hb hberr (halen.trans (hconfig.planeSize f.bpp).symm)
  rw [hconfig.applySwizzle, hatexture] at hbtexture
  exact ⟨hbtexture, hbpal.trans hapal, hbcount.trans hacount⟩

end textures

/-! ### ENCODE by its parts -/

/-- A palette that has every color of the image is extended to itself (43_palette.md R131). -/
theorem paletteExtend_again {pal : Palette} {count cap : Nat} {px : List Pixel} (hcap : cap ≤ 256)
    (h : paletteExtend palZero 0 px cap = .ok (pal, count)) : paletteExtend pal count px cap = .ok (pal, count) := by
  obtain ⟨-, hcount, -, -, hcolors, -⟩ := paletteExtend_ok hcap h
  rw [paletteExtend, if_neg (Nat.not_lt.mpr hcount), paletteScan_of_present hcolors]

/-- Settles O53: the parts leave the texture of the ENCODE, byte for byte. -/
theorem encodeIsTheCompositionOfItsParts : Obligations.EncodeIsTheCompositionOfItsParts := by
  unfold Obligations.EncodeIsTheCompositionOfItsParts
  constructor
  · intro f s t a b hcap hci ht hterr ha haerr hb hberr
    obtain ⟨-, -, pal, count, -, httexture, -, htpal, htcount⟩ := texture_of_encode hcap ht hterr
    obtain ⟨hbtexture, hbpal, hbcount⟩ := texture_of_planeEncode_swizzle hcap
      (encodePalette_unindexed hci s.pal s.paletteCount s.image) ha haerr hb hberr
    rw [State.storeIfIndexed_unindexed hci] at htpal htcount hbpal hbcount
    have htexture : b.texture = t.texture := by
      rw [hbtexture, httexture, encodeTexture_unindexed hci, planeEncode_unindexed f hci s.image pal s.pal]
    obtain ⟨hlen, hbytes⟩ := (texture_eq_iff t b).mp htexture
    exact ⟨hlen, hbytes, hbpal.trans htpal.symm, hbcount.trans htcount.symm⟩
  · intro c s t z a b d hcap ht hterr hz hzerr ha haerr hb hberr hd hderr
    rw [← CIFormat.code_format] at ht hb
    obtain ⟨-, -, pal, count, hpal, httexture, -, htpal, htcount⟩ := texture_of_encode hcap ht hterr
    rw [encodePalette_indexed] at hpal
    have hcount : count ≤ 256 := by
      obtain ⟨-, hle, -⟩ := paletteExtend_ok (CIFormat.cap_le c) hpal
      exact hle.trans (CIFormat.cap_le c)
    obtain ⟨u, hu, rfl⟩ := result_of_exec hz hzerr
    obtain ⟨-, pal', count', hpal', rfl⟩ := palBuildBody_ok ((commandResult_palBuild c s).symm.trans hu)
    cases hpal.symm.trans hpal'
    have hzcount : (s.storePalette pal count).succeed.paletteCount = count := paletteCount_storePalette hcount s pal
    have hzpal : encodePalette c.format pal (s.storePalette pal count).succeed.paletteCount s.image =
        .ok (pal, count) := by
      rw [hzcount, encodePalette_indexed, paletteExtend_again (CIFormat.cap_le c) hpal]
    obtain ⟨hbtexture, hbpal, hbcount⟩ :=
      texture_of_planeEncode_swizzle (s := (s.storePalette pal count).succeed) hcap hzpal ha haerr hb hberr
    rw [State.storeIfIndexed_indexed] at htpal htcount hbpal hbcount
    have hconfig := (sameConfig_of_exec ha).trans (sameConfig_of_exec hb)
    obtain ⟨hdtexture, hdpal, hdcount⟩ := texture_of_palWrite (hconfig.rawCap.trans_lt hcap) hd hderr
    have hbcount' : b.paletteCount = count := (congrArg BitVec.toNat hbcount).trans hzcount
    have htexture : d.texture = t.texture := by
      rw [hdtexture, hbcount', hbpal, hbtexture, hconfig.palAtStart, httexture, encodeTexture_indexed]
      rfl
    obtain ⟨hlen, hbytes⟩ := (texture_eq_iff t d).mp htexture
    exact ⟨hlen, hbytes, (hdpal.trans hbpal).trans htpal.symm, (hdcount.trans hbcount).trans htcount.symm⟩

/-! ### DECODE of the texture of an ENCODE -/

/-- What attachPalette joins, splitPalette takes apart (43_palette.md R135). -/
theorem splitPalette_attachPalette {pb B : List Byte} {nb : Nat} (h : pb.length = nb) (b : Bool) :
    splitPalette (attachPalette pb B b) nb b = .ok (pb, B) := by
  rw [splitPalette, attachPalette_length, h, if_neg (Nat.not_lt.mpr (Nat.le_add_right nb B.length))]
  subst h
  cases b <;> simp [attachPalette, slice]

/-- A palette that is 0 beyond its count is read as it was written (43_palette.md R133, R134). -/
theorem paletteParse_paletteBytes {pal : Palette} {count cap : Nat} (hcap : cap ≤ 256) (hcount : count ≤ cap)
    (hzero : ∀ i, count ≤ i → palEntry pal i = 0) : paletteParse (paletteBytes pal count cap) cap = pal := by
  apply palette_ext
  intro i _
  rw [palEntry_paletteParse _ _ _ hcap]
  by_cases hi : i < cap
  · obtain ⟨hhigh, hlow⟩ := paletteBytes_getElem? pal count cap i hi
    rw [if_pos hi, byteAt_eq_of_getElem? hhigh, byteAt_eq_of_getElem? hlow, wordOfBytes_bytesOfWord]
    split
    · rfl
    · exact (hzero i (by omega)).symm
  · rw [if_neg hi, hzero i (by omega)]

theorem image_length_even {f : Format} {s : State} (hodd : ¬ oddPair f.bpp s) (hb : f.bpp = 4) :
    s.image.length % 2 = 0 := by
  have hw : s.imgWidth % 2 = 0 := by
    have : s.imgWidth % 2 ≠ 1 := fun h => hodd ⟨hb, h⟩
    omega
  rw [State.image, State.surfPixels_length, State.imgPixels, Nat.mul_mod, hw, Nat.zero_mul, Nat.zero_mod]

/-- A DECODE takes from the texture of an ENCODE its plane, and a palette with which the plane, unswizzled, decodes to
the lossy form of the image (42_plane_encode.md R121). -/
theorem decodePalette_encodeTexture {f : Format} {s u : State} {pal : Palette} {count : Nat}
    (hstart : u.palAtStart = s.palAtStart) (hodd : ¬ oddPair f.bpp s)
    (hpal : encodePalette f palZero 0 s.image = .ok (pal, count)) :
    ∃ pal', decodePalette f u (encodeTexture f s s.image pal count) =
        .ok (pal', s.applySwizzle f (planeEncode f s.image pal count)) ∧
      ∀ k, k < s.imgPixels → planePixel f (planeEncode f s.image pal count) pal' k = lossy f (s.surfRead k) := by
  have heven : f.bpp = 4 → s.image.length % 2 = 0 := image_length_even hodd
  cases hci : f.ci? with
  | none =>
    refine ⟨u.pal, by rw [encodeTexture_unindexed hci, decodePalette_unindexed hci], fun k hk => ?_⟩
    rw [planeEncode_unindexed f hci s.image pal u.pal count 0]
    exact planePixel_planeEncode (image_getElem? s hk) heven (encodePalette_unindexed hci u.pal 0 s.image)
  | some c =>
    obtain rfl := Format.eq_format_of_ci? hci
    refine ⟨pal, ?_, fun k hk => planePixel_planeEncode (image_getElem? s hk) heven hpal⟩
    rw [encodePalette_indexed] at hpal
    obtain ⟨-, hcount, -, hbeyond, -, -⟩ := paletteExtend_ok (CIFormat.cap_le c) hpal
    have hparse := paletteParse_paletteBytes (CIFormat.cap_le c) hcount
      fun i hi => (hbeyond i hi).trans (palEntry_zero i)
    have hsplit := splitPalette_attachPalette (B := s.applySwizzle c.format (planeEncode c.format s.image pal count))
      (paletteBytes_length pal count c.cap) u.palAtStart
    rw [encodeTexture_indexed, ← hstart, decodePalette_of_split hsplit, hparse]

/-- Settles O55: a DECODE finds the palette and the swizzled plane of the ENCODE; the swizzle undoes itself where it
keeps the plane, and otherwise the plane is too short. -/
theorem wholeTextureRoundTrip : Obligations.WholeTextureRoundTrip := by
  unfold Obligations.WholeTextureRoundTrip
  intro f s t u hcap ht hterr hen hstart hwidth hheight hraw hsurf hlen hbytes
  obtain ⟨hodd, himage, pal, count, hpal, httexture, htlen, -⟩ := texture_of_encode hcap ht hterr
  have htconfig := sameConfig_of_exec ht
  have hconfig : SameConfig s u := htconfig.trans ⟨hen, hstart, hwidth, hheight, hraw, hsurf⟩
  have hutexture := ((texture_eq_iff t u).mpr ⟨hlen, hbytes⟩).trans httexture
  obtain ⟨pal', hdecode, hpixels⟩ := decodePalette_encodeTexture hconfig.palAtStart hodd hpal
  rw [← hutexture] at hdecode
  have huodd : ¬ oddPair f.bpp u := by rwa [oddPair, hconfig.imgWidth]
  have hulen : u.rawLength = t.rawLength := congrArg BitVec.toNat hlen
  have hucap : ¬ overCapacity u := by
    rw [overCapacity, hulen, hconfig.rawCap, hconfig.surfCap, hconfig.imgPixels]
    omega
  have hplane := image_plane_length hodd pal count
  refine ⟨fun hkeeps => ?_, fun hcut => ?_⟩
  · have hswizzled := applySwizzle_length hodd hkeeps hplane
    have hok := decodeBody_of_whole huodd hucap hdecode
      ((hconfig.planeSize f.bpp).trans_le hswizzled.ge) ((hconfig.keepsPlane_iff f).mpr hkeeps)
    rw [hconfig.planeSize, ← hswizzled, slice_all, hconfig.applySwizzle,
      applySwizzle_applySwizzle hodd hkeeps hplane, hconfig.imgPixels] at hok
    refine ⟨_, exec_of_result ((commandResult_decode f u).trans hok), rfl, fun k hk => ?_⟩
    rw [State.succeed_surf, State.loadIfIndexed_surf, read_writeSurf_planeDecode, if_pos hk, hpixels k hk]
  · have hshort := applySwizzle_length_lt hodd ((not_keepsPlane_iff f s).mpr hcut) hplane
    exact failsWith_of_result (e := .truncatedInput) ((commandResult_decode f u).trans
      (decodeBody_of_short huodd hucap hdecode (hshort.trans_eq (hconfig.planeSize f.bpp).symm)))

end Sys2Proof.Machine

/-! O14: a command that fails changes STATUS.ERR alone, and fails the same again (60_exceptions.md R183, R184). No
command reads STATUS.ERR: its checks are those of the state with another code there, and what it stores keeps that code
until the commit overwrites it. -/

namespace Sys2Proof.Machine

open Sys2Proof

/-- The state with another code in STATUS.ERR. -/
def State.withErr (s : State) (x : BitVec 4) : State := { s with err := x }

theorem State.withErr_raise (s : State) (x : BitVec 4) (e : ErrorKind) : (s.withErr x).raise e = s.raise e := rfl

theorem State.withErr_succeed (s : State) (x : BitVec 4) : (s.withErr x).succeed = s.succeed := rfl

/-- The operands of a command do not hold STATUS.ERR. -/
theorem State.operands_withErr (s : State) (x : BitVec 4) :
    (s.withErr x).imgWidth = s.imgWidth ∧ (s.withErr x).imgHeight = s.imgHeight ∧
      (s.withErr x).imgPixels = s.imgPixels ∧ (s.withErr x).rawLength = s.rawLength ∧
      (s.withErr x).rawCap = s.rawCap ∧ (s.withErr x).surfCap = s.surfCap ∧ (s.withErr x).swzEn = s.swzEn ∧
      (s.withErr x).palAtStart = s.palAtStart ∧ (s.withErr x).pal = s.pal ∧
      (s.withErr x).paletteCount = s.paletteCount ∧ (∀ n, (s.withErr x).surfPixels n = s.surfPixels n) ∧
      ∀ a b, (s.withErr x).rawBytes a b = s.rawBytes a b :=
  ⟨rfl, rfl, rfl, rfl, rfl, rfl, rfl, rfl, rfl, rfl, fun _ => rfl, fun _ _ => rfl⟩

theorem State.storeIfIndexed_withErr {s s' : State} {x : BitVec 4} (h : s' = s.withErr x) (f : Format) (pal : Palette)
    (n : Nat) : s'.storeIfIndexed f pal n = (s.storeIfIndexed f pal n).withErr x := by
  subst h
  unfold State.storeIfIndexed
  split <;> rfl

theorem State.loadIfIndexed_withErr {s s' : State} {x : BitVec 4} (h : s' = s.withErr x) (f : Format) (pal : Palette) :
    s'.loadIfIndexed f pal = (s.loadIfIndexed f pal).withErr x := by
  subst h
  unfold State.loadIfIndexed
  split <;> rfl

/-! ### Results that differ in STATUS.ERR -/

/-- The two results are the same error, or states that differ only in the second's code x in STATUS.ERR. -/
inductive SameUpToErr (x : BitVec 4) : Except ErrorKind State → Except ErrorKind State → Prop
  | error (e : ErrorKind) : SameUpToErr x (.error e) (.error e)
  | ok {t t' : State} (h : t' = t.withErr x) : SameUpToErr x (.ok t) (.ok t')

/-- A check that both sides make, and on which both raise one error. -/
theorem SameUpToErr.check {x : BitVec 4} {c : Prop} [Decidable c] {e : ErrorKind} {r r' : Except ErrorKind State}
    (h : SameUpToErr x r r') : SameUpToErr x (if c then .error e else r) (if c then .error e else r') := by
  split
  · exact .error e
  · exact h

/-- The commit overwrites the code that the results differ in. -/
theorem SameUpToErr.commit {x : BitVec 4} {r r' : Except ErrorKind State} (h : SameUpToErr x r r') (s : State) :
    Machine.commit (s.withErr x) r' = Machine.commit s r := by
  cases h with
  | error e => rw [commit_error, commit_error, State.withErr_raise]
  | ok h => rw [commit_ok, commit_ok, h, State.withErr_succeed]

section bodies

variable (s : State) (x : BitVec 4)

theorem withFormat_sameUpToErr (fmt : FmtCode) {body body' : Format → Except ErrorKind State}
    (h : ∀ f, SameUpToErr x (body f) (body' f)) : SameUpToErr x (withFormat fmt body) (withFormat fmt body') := by
  unfold withFormat
  split
  · exact .error _
  · exact h _

theorem withIndexed_sameUpToErr (fmt : FmtCode) {body body' : CIFormat → Except ErrorKind State}
    (h : ∀ c, SameUpToErr x (body c) (body' c)) : SameUpToErr x (withIndexed fmt body) (withIndexed fmt body') := by
  unfold withIndexed
  split
  · exact .error _
  · exact h _

theorem planeDecodeBody_withErr (f : Format) :
    SameUpToErr x (planeDecodeBody f s) (planeDecodeBody f (s.withErr x)) := by
  simp only [planeDecodeBody, s.operands_withErr x]
  exact .check (.check (.check (.ok rfl)))

theorem planeEncodeBody_withErr (f : Format) :
    SameUpToErr x (planeEncodeBody f s) (planeEncodeBody f (s.withErr x)) := by
  simp only [planeEncodeBody, s.operands_withErr x]
  refine .check (.check ?_)
  split
  · exact .error _
  · exact .check (.ok (State.storeIfIndexed_withErr (by rfl) f _ _))

theorem decodePalette_withErr (f : Format) (B : List Byte) : decodePalette f (s.withErr x) B = decodePalette f s B :=
  rfl

theorem decodeBody_withErr (f : Format) : SameUpToErr x (decodeBody f s) (decodeBody f (s.withErr x)) := by
  simp only [decodeBody, s.operands_withErr x, decodePalette_withErr]
  refine .check (.check ?_)
  split
  · exact .error _
  · exact .check (.check (.ok (State.loadIfIndexed_withErr (by rfl) f _)))

theorem encodeTexture_withErr (f : Format) (px : List Pixel) (pal : Palette) (count : Nat) :
    encodeTexture f (s.withErr x) px pal count = encodeTexture f s px pal count := rfl

theorem encodeBody_withErr (f : Format) : SameUpToErr x (encodeBody f s) (encodeBody f (s.withErr x)) := by
  simp only [encodeBody, s.operands_withErr x, encodeTexture_withErr]
  refine .check (.check ?_)
  split
  · exact .error _
  · exact .check (.ok (State.storeIfIndexed_withErr (by rfl) f _ _))

theorem palBuildBody_withErr (c : CIFormat) : SameUpToErr x (palBuildBody c s) (palBuildBody c (s.withErr x)) := by
  simp only [palBuildBody, s.operands_withErr x]
  refine .check ?_
  split
  · exact .error _
  · exact .ok rfl

theorem palReadBody_withErr (c : CIFormat) : SameUpToErr x (palReadBody c s) (palReadBody c (s.withErr x)) := by
  simp only [palReadBody, s.operands_withErr x]
  refine .check ?_
  split
  · exact .error _
  · exact .ok rfl

theorem palWriteBody_withErr (c : CIFormat) : SameUpToErr x (palWriteBody c s) (palWriteBody c (s.withErr x)) := by
  simp only [palWriteBody, s.operands_withErr x]
  exact .check (.check (.check (.ok rfl)))

theorem swizzleBody_withErr (f : Format) : SameUpToErr x (swizzleBody f s) (swizzleBody f (s.withErr x)) := by
  simp only [swizzleBody, s.operands_withErr x]
  split
  · exact .ok rfl
  · exact .check (.check (.check (.ok rfl)))

theorem opResult_withErr (op : Op) (fmt : FmtCode) :
    SameUpToErr x (opResult op fmt s) (opResult op fmt (s.withErr x)) := by
  cases op with
  | nop => exact .ok rfl
  | decode => exact withFormat_sameUpToErr x fmt (decodeBody_withErr s x)
  | encode => exact withFormat_sameUpToErr x fmt (encodeBody_withErr s x)
  | planeDecode => exact withFormat_sameUpToErr x fmt (planeDecodeBody_withErr s x)
  | planeEncode => exact withFormat_sameUpToErr x fmt (planeEncodeBody_withErr s x)
  | palBuild => exact withIndexed_sameUpToErr x fmt (palBuildBody_withErr s x)
  | palRead => exact withIndexed_sameUpToErr x fmt (palReadBody_withErr s x)
  | palWrite => exact withIndexed_sameUpToErr x fmt (palWriteBody_withErr s x)
  | swizzle => exact withFormat_sameUpToErr x fmt (swizzleBody_withErr s x)
  | unpack5551 => exact .ok rfl
  | pack5551 => exact .ok rfl

end bodies

/-! ### No command reads STATUS.ERR -/

theorem exec_withErr (i : Instr) (s : State) (x : BitVec 4) : exec i (s.withErr x) = exec i s := by
  rw [exec_eq_commit_opResult, exec_eq_commit_opResult]
  exact (opResult_withErr s x i.op i.fmt).commit s

theorem issue_withErr (c : Word32) (s : State) (x : BitVec 4) : issue c (s.withErr x) = issue c s := by
  cases h : decode c with
  | ok i => rw [issue_of_decode_ok h, issue_of_decode_ok h, exec_withErr]
  | error r => rw [issue_of_decode_error h, issue_of_decode_error h, State.withErr_raise]

/-- Everything that leaves an error code is a `raise` from the state at issue. -/
theorem issue_failed {c : Word32} {s t : State} (h : issue c s = .next t) (ht : t.err ≠ 0) :
    ∃ e, t = s.raise e := by
  rcases issue_cases c s with ⟨i, -, hi⟩ | ⟨r, -, hr⟩
  · rcases commit_next (hi.symm.trans h) with ⟨e, -, hraise⟩ | ⟨u, -, hsucceed⟩
    · exact ⟨e, hraise⟩
    · exact absurd (congrArg State.err hsucceed) ht
  · exact ⟨rejectError r, Outcome.next_inj (h.symm.trans hr)⟩

/-- Settles O14: a code is left by a `raise`, and the next command does not read it. -/
theorem failedCommandChangesOnlyTheErrorCode : Obligations.FailedCommandChangesOnlyTheErrorCode := by
  unfold Obligations.FailedCommandChangesOnlyTheErrorCode
  intro c s
  obtain ⟨t, ht⟩ := issue_total c s
  refine ⟨t, ht, fun herr => ?_⟩
  obtain ⟨e, rfl⟩ := issue_failed ht herr
  exact ⟨rfl, (issue_withErr c s e.code).trans ht⟩

end Sys2Proof.Machine

/-! O15: the codes each command can leave (60_exceptions.md R180, R182). `RaisesOnly` bounds the error of a result by a
list of codes; each body keeps the list of its operation check by check. -/

namespace Sys2Proof.Machine

open Sys2Proof

/-! ### The errors of the shared parts -/

theorem admitFormat_error {fmt : FmtCode} {e : ErrorKind} (h : admitFormat fmt = .error e) :
    e = .unsupportedFormat := by
  unfold admitFormat at h
  split at h
  · cases h
  · cases h; rfl

theorem admitIndexed_error {fmt : FmtCode} {e : ErrorKind} (h : admitIndexed fmt = .error e) :
    e = .unsupportedFormat := by
  unfold admitIndexed at h
  split at h
  · split at h
    · cases h
    · cases h; rfl
  · cases h; rfl

theorem encodePalette_error {f : Format} {pal : Palette} {n : Nat} {px : List Pixel} {e : ErrorKind}
    (h : encodePalette f pal n px = .error e) : e = .paletteOverflow := by
  unfold encodePalette at h
  split at h
  · cases h
  · exact paletteExtend_error h

theorem splitPalette_error {B : List Byte} {nb : Nat} {atStart : Bool} {e : ErrorKind}
    (h : splitPalette B nb atStart = .error e) : e = .malformedPalette := by
  rcases splitPalette_cases B nb atStart with ⟨-, hshort⟩ | ⟨-, pb, rest, hsplit, -⟩
  · cases hshort.symm.trans h; rfl
  · cases hsplit.symm.trans h

theorem decodePalette_error {f : Format} {s : State} {B : List Byte} {e : ErrorKind}
    (h : decodePalette f s B = .error e) : e = .malformedPalette := by
  unfold decodePalette at h
  split at h
  · cases h
  · split at h
    · rename_i hsplit
      cases h
      exact splitPalette_error hsplit
    · cases h

/-! ### Bounded results -/

/-- Where the result is an error, its code is in the list. -/
def RaisesOnly (codes : List (BitVec 4)) (r : Except ErrorKind State) : Prop := ∀ e, r = .error e → e.code ∈ codes

section RaisesOnly

variable {codes : List (BitVec 4)}

theorem RaisesOnly.ok (t : State) : RaisesOnly codes (.ok t) := fun _ h => nomatch h

theorem RaisesOnly.error {e : ErrorKind} (he : e.code ∈ codes) : RaisesOnly codes (.error e) := by
  rintro _ ⟨⟩
  exact he

/-- A check may raise an error of the list. -/
theorem RaisesOnly.check {c : Prop} [Decidable c] {e : ErrorKind} {r : Except ErrorKind State} (he : e.code ∈ codes)
    (h : RaisesOnly codes r) : RaisesOnly codes (if c then .error e else r) := by
  split
  · exact .error he
  · exact h

theorem RaisesOnly.commit {s t : State} {r : Except ErrorKind State} (h : RaisesOnly codes r) (hzero : 0 ∈ codes)
    (ht : commit s r = .next t) : t.err ∈ codes := by
  rcases commit_next ht with ⟨e, he, rfl⟩ | ⟨u, -, rfl⟩
  · exact h e he
  · exact hzero

theorem withFormat_raisesOnly (fmt : FmtCode) {body : Format → Except ErrorKind State} (hfmt : 1 ∈ codes)
    (h : ∀ f, RaisesOnly codes (body f)) : RaisesOnly codes (withFormat fmt body) := by
  unfold withFormat
  split
  · rename_i he
    cases admitFormat_error he
    exact .error hfmt
  · exact h _

theorem withIndexed_raisesOnly (fmt : FmtCode) {body : CIFormat → Except ErrorKind State} (hfmt : 1 ∈ codes)
    (h : ∀ c, RaisesOnly codes (body c)) : RaisesOnly codes (withIndexed fmt body) := by
  unfold withIndexed
  split
  · rename_i he
    cases admitIndexed_error he
    exact .error hfmt
  · exact h _

end RaisesOnly

/-! ### The bodies, each within the list of its operation -/

section bodies

variable (s : State)

theorem planeDecodeBody_raisesOnly (f : Format) : RaisesOnly (errorCodes .planeDecode) (planeDecodeBody f s) := by
  unfold planeDecodeBody
  exact .check (by decide) (.check (by decide) (.check (by decide) (.ok _)))

theorem planeEncodeBody_raisesOnly (f : Format) : RaisesOnly (errorCodes .planeEncode) (planeEncodeBody f s) := by
  simp only [planeEncodeBody]
  refine .check (by decide) (.check (by decide) ?_)
  split
  · rename_i hpal
    cases encodePalette_error hpal
    exact .error (by decide)
  · exact .check (by decide) (.ok _)

theorem decodeBody_raisesOnly (f : Format) : RaisesOnly (errorCodes .decode) (decodeBody f s) := by
  simp only [decodeBody]
  refine .check (by decide) (.check (by decide) ?_)
  split
  · rename_i hpal
    cases decodePalette_error hpal
    exact .error (by decide)
  · exact .check (by decide) (.check (by decide) (.ok _))

theorem encodeBody_raisesOnly (f : Format) : RaisesOnly (errorCodes .encode) (encodeBody f s) := by
  simp only [encodeBody]
  refine .check (by decide) (.check (by decide) ?_)
  split
  · rename_i hpal
    cases encodePalette_error hpal
    exact .error (by decide)
  · exact .check (by decide) (.ok _)

theorem palBuildBody_raisesOnly (c : CIFormat) : RaisesOnly (errorCodes .palBuild) (palBuildBody c s) := by
  unfold palBuildBody
  refine .check (by decide) ?_
  split
  · rename_i hpal
    cases paletteExtend_error hpal
    exact .error (by decide)
  · exact .ok _

theorem palReadBody_raisesOnly (c : CIFormat) : RaisesOnly (errorCodes .palRead) (palReadBody c s) := by
  unfold palReadBody
  refine .check (by decide) ?_
  split
  · rename_i hsplit
    cases splitPalette_error hsplit
    exact .error (by decide)
  · exact .ok _

theorem palWriteBody_raisesOnly (c : CIFormat) : RaisesOnly (errorCodes .palWrite) (palWriteBody c s) := by
  unfold palWriteBody
  exact .check (by decide) (.check (by decide) (.check (by decide) (.ok _)))

theorem swizzleBody_raisesOnly (f : Format) : RaisesOnly (errorCodes .swizzle) (swizzleBody f s) := by
  unfold swizzleBody
  split
  · exact .ok _
  · exact .check (by decide) (.check (by decide) (.check (by decide) (.ok _)))

theorem opResult_raisesOnly (op : Op) (fmt : FmtCode) : RaisesOnly (errorCodes op) (opResult op fmt s) := by
  cases op with
  | nop => exact .ok _
  | decode => exact withFormat_raisesOnly fmt (by decide) (decodeBody_raisesOnly s)
  | encode => exact withFormat_raisesOnly fmt (by decide) (encodeBody_raisesOnly s)
  | planeDecode => exact withFormat_raisesOnly fmt (by decide) (planeDecodeBody_raisesOnly s)
  | planeEncode => exact withFormat_raisesOnly fmt (by decide) (planeEncodeBody_raisesOnly s)
  | palBuild => exact withIndexed_raisesOnly fmt (by decide) (palBuildBody_raisesOnly s)
  | palRead => exact withIndexed_raisesOnly fmt (by decide) (palReadBody_raisesOnly s)
  | palWrite => exact withIndexed_raisesOnly fmt (by decide) (palWriteBody_raisesOnly s)
  | swizzle => exact withFormat_raisesOnly fmt (by decide) (swizzleBody_raisesOnly s)
  | unpack5551 => exact .ok _
  | pack5551 => exact .ok _

end bodies

theorem zero_mem_errorCodes (op : Op) : 0 ∈ errorCodes op := by cases op <;> decide

/-- Settles O15: the word commits the result of its operation, which raises only errors of its list. -/
theorem commandsLeaveOnlyTheirOwnErrorCodes : Obligations.CommandsLeaveOnlyTheirOwnErrorCodes := by
  unfold Obligations.CommandsLeaveOnlyTheirOwnErrorCodes
  intro c op s t hrsv hop ht
  rw [issue_of_op hrsv hop.symm] at ht
  exact (opResult_raisesOnly s op (fmtField c)).commit (zero_mem_errorCodes op) ht

end Sys2Proof.Machine

/-! O12: the reset input and a loss of power (70_reset_and_hazards.md R200, 60_exceptions.md R192). -/

namespace Sys2Proof.Machine

open Sys2Proof

theorem step_of_assertReset {s : State} {rest : List HostEvent} (h : s.pending = .assertReset :: rest) :
    step s = .next (s.setPending rest).assertReset := by
  rw [step_of_pending h, perform]

theorem step_of_losePower {s : State} {rest : List HostEvent} (h : s.pending = .losePower :: rest) :
    step s = .refused .powerLost := by
  rw [step_of_pending h, perform]

/-- The engine's side of an asserted reset is the reset state; both memories, the instance and the host stay. -/
theorem assertReset_setPending (s : State) (rest : List HostEvent) :
    (s.setPending rest).assertReset = { State.reset with
      raw := s.raw, surf := s.surf, rawCap := s.rawCap, surfCap := s.surfCap, pending := rest,
      response := s.response } := by
  rw [State.assertReset, State.setPending]

/-- Settles O12: the next state is `assertReset` with the event taken off the list, whose RAW and SURF are those
of the state before; losing power has no next state. -/
theorem resetInputKeepsRawAndSurf : Obligations.ResetInputKeepsRawAndSurf := by
  unfold Obligations.ResetInputKeepsRawAndSurf
  intro s rest
  refine ⟨fun h => ⟨(s.setPending rest).assertReset, step_of_assertReset h, ?_, fun a => ?_, fun k => ?_⟩,
    step_of_losePower⟩
  · rw [State.assertReset_raw, State.assertReset_surf, State.setPending_raw, State.setPending_surf]
    exact assertReset_setPending s rest
  · rw [State.assertReset_raw, State.setPending_raw]
  · rw [State.assertReset_surf, State.setPending_surf]

end Sys2Proof.Machine
